-- ==== Sys2Proof/Word.lean ====
section
/-! DEFINITION. The word types of CORE: what the spec treats as bits, at the widths of 10_state.md R31, R50, R51 and
30_encoding.md R102. -/

namespace Sys2Proof

/-- A channel byte, a hue, a pixel index or a gamma table entry. -/
abbrev Byte := BitVec 8

/-- A brightness level (10_state.md R50). -/
abbrev Level := BitVec 3

/-- A strip entry: level in bits 10:8, hue in bits 7:0 (20_memory.md R71). -/
abbrev Entry := BitVec 11

/-- A triplet: r in bits 23:16, g in bits 15:8, b in bits 7:0 (10_state.md R42). -/
abbrev Rgb := BitVec 24

/-- A register of 32 bits, or a descriptor (30_encoding.md R102). -/
abbrev Word := BitVec 32

end Sys2Proof
end

