-- ==== Sys2Proof/Syntax.lean ====
section
/-! DEFINITION. The 40 operations of OPS-1 (30_encoding.md R101), one constructor per row of spec/opcode_table.json.
Operands have exactly the widths of the descriptor's fields (R104 to R110), so that every term can be encoded. -/

namespace Sys2Proof

/-- The operation set OPS-1 (30_encoding.md R101). `SHOW` is `showFrame`, since `show` is a word of Lean. -/
inductive Instr where
  /-- SENDBIT b: one pulse (40_transmitter.md R132). -/
  | sendbit (b : BitVec 1)
  /-- SENDBYTE v (40_transmitter.md R133). -/
  | sendbyte (v : Byte)
  /-- SENDCOLOR r, g, b (40_transmitter.md R134). -/
  | sendcolor (r g b : Byte)
  /-- LATCH: the latch gap (40_transmitter.md R135). -/
  | latch
  /-- SHOW: one frame (40_transmitter.md R136). -/
  | showFrame
  /-- HUE2RGB h, l: the gamma conversion (41_color_model.md R152). -/
  | hue2rgb (h : Byte) (l : Level)
  /-- HUE2RGBL h: the linear conversion (41_color_model.md R153). -/
  | hue2rgbl (h : Byte)
  /-- PXSET i, h, l: store one pixel (42_pixel_strip.md R166). -/
  | pxset (i h : Byte) (l : Level)
  /-- PXGET i: load one pixel (42_pixel_strip.md R171). -/
  | pxget (i : Byte)
  /-- FADE: one brightness step down (42_pixel_strip.md R167). -/
  | fade
  /-- CLEAR: all levels 0 (42_pixel_strip.md R168). -/
  | clear
  /-- FILL h, l: every pixel (42_pixel_strip.md R169). -/
  | fill (h : Byte) (l : Level)
  /-- ROTATE: by one position (42_pixel_strip.md R170). -/
  | rotate
  /-- RNEXT m: one call of the generator (45_prng.md R247). -/
  | rnext (m : BitVec 24)
  /-- FX0: comet-init (43_animation.md R186). -/
  | fx0
  /-- FX1: comet (43_animation.md R187). -/
  | fx1
  /-- FX2: sparkle (43_animation.md R188). -/
  | fx2
  /-- FX3: random-init (43_animation.md R189). -/
  | fx3
  /-- FX4: drift (43_animation.md R190). -/
  | fx4
  /-- FX5: rainbow-init (43_animation.md R191). -/
  | fx5
  /-- FX6: rainbow-rotate (43_animation.md R192). -/
  | fx6
  /-- FX7: breathe (43_animation.md R193). -/
  | fx7
  /-- ANEXT: advance the animation state (43_animation.md R194). -/
  | anext
  /-- ATICK: count one refresh period (43_animation.md R195). -/
  | atick
  /-- GRESET: the game's Reset (44_game.md R217). -/
  | greset
  /-- GSTEP: the hunter steps (44_game.md R219). -/
  | gstep
  /-- GCATCH: success (44_game.md R220). -/
  | gcatch
  /-- GRENDER: draw the game (44_game.md R221). -/
  | grender
  /-- GPOLL: one poll (44_game.md R222). -/
  | gpoll
  /-- GINIT: first entry into the game (44_game.md R218). -/
  | ginit
  /-- WFE: wait for an event (46_system.md R261). -/
  | wfe
  /-- ARMWAKE n: arm the periodic wake timer (46_system.md R262). -/
  | armwake (n : BitVec 24)
  /-- DELAYUS n: wait n microseconds (46_system.md R259). -/
  | delayus (n : BitVec 24)
  /-- DELAYMS n: wait n milliseconds (46_system.md R260). -/
  | delayms (n : BitVec 24)
  /-- RDCNT: sample the counter (46_system.md R258). -/
  | rdcnt
  /-- RDBTN: sample the button (46_system.md R257). -/
  | rdbtn
  /-- IRQOFF: open the critical section (46_system.md R263). -/
  | irqoff
  /-- IRQON: close the critical section (46_system.md R264). -/
  | irqon
  /-- WAITREL: wait for the button's release (46_system.md R265). -/
  | waitrel
  /-- PINCFG: configure the pins (46_system.md R256). -/
  | pincfg
deriving DecidableEq, Repr

end Sys2Proof
end

