-- ==== Sys2Proof/Decode.lean ====
section
/-! DEFINITION. The descriptor: decoding (30_encoding.md R121), encoding (R101 to R111), the mnemonics and the written
form (R119). -/

namespace Sys2Proof

/-- Why a word is no descriptor: both are `ReservedDescriptor` (30_encoding.md R114). -/
inductive DecodeError where
  /-- Step 2 of R121: `op` is not one of the 40 codes. -/
  | reservedOp
  /-- Step 3 of R121: a bit that the format fixes at 0 is 1. -/
  | reservedBits
deriving DecidableEq, Repr

/-- `op`, bits 31:24 (R102). -/
def opField (w : Word) : Byte := w.extractLsb' 24 8

/-- `arg`, bits 23:0 (R102). -/
def argField (w : Word) : BitVec 24 := w.extractLsb' 0 24

/-- Format F0 (R103). -/
def decodeF0 (i : Instr) (arg : BitVec 24) : Except DecodeError Instr :=
  if arg = 0 then .ok i else .error .reservedBits

/-- Format FBIT (R104). -/
def decodeFBIT (mk : BitVec 1 → Instr) (arg : BitVec 24) : Except DecodeError Instr :=
  if arg.extractLsb' 1 23 = 0 then .ok (mk (arg.extractLsb' 0 1)) else .error .reservedBits

/-- Format FB (R105). -/
def decodeFB (mk : Byte → Instr) (arg : BitVec 24) : Except DecodeError Instr :=
  if arg.extractLsb' 8 16 = 0 then .ok (mk (arg.extractLsb' 0 8)) else .error .reservedBits

/-- Format FC (R106). -/
def decodeFC (mk : Byte → Byte → Byte → Instr) (arg : BitVec 24) : Except DecodeError Instr :=
  .ok (mk (arg.extractLsb' 16 8) (arg.extractLsb' 8 8) (arg.extractLsb' 0 8))

/-- Format FH (R107). -/
def decodeFH (mk : Byte → Level → Instr) (arg : BitVec 24) : Except DecodeError Instr :=
  if arg.extractLsb' 11 13 = 0 then .ok (mk (arg.extractLsb' 0 8) (arg.extractLsb' 8 3)) else .error .reservedBits

/-- Format FP (R108). -/
def decodeFP (mk : Byte → Byte → Level → Instr) (arg : BitVec 24) : Except DecodeError Instr :=
  if arg.extractLsb' 11 5 = 0 then
    .ok (mk (arg.extractLsb' 16 8) (arg.extractLsb' 0 8) (arg.extractLsb' 8 3))
  else .error .reservedBits

/-- Format FI (R109). -/
def decodeFI (mk : Byte → Instr) (arg : BitVec 24) : Except DecodeError Instr :=
  if arg.extractLsb' 0 16 = 0 then .ok (mk (arg.extractLsb' 16 8)) else .error .reservedBits

/-- Format FM (R110). -/
def decodeFM (mk : BitVec 24 → Instr) (arg : BitVec 24) : Except DecodeError Instr := .ok (mk arg)

/-- Steps 2 to 4 of R121: the operation code picks the row of R101's table, the row's format reads `arg`. -/
def decodeFields (op : Nat) (arg : BitVec 24) : Except DecodeError Instr :=
  match op with
  | 0x00 => decodeFBIT .sendbit arg
  | 0x01 => decodeFB .sendbyte arg
  | 0x02 => decodeFC .sendcolor arg
  | 0x03 => decodeF0 .latch arg
  | 0x04 => decodeF0 .showFrame arg
  | 0x10 => decodeFH .hue2rgb arg
  | 0x11 => decodeFB .hue2rgbl arg
  | 0x20 => decodeFP .pxset arg
  | 0x21 => decodeFI .pxget arg
  | 0x22 => decodeF0 .fade arg
  | 0x23 => decodeF0 .clear arg
  | 0x24 => decodeFH .fill arg
  | 0x25 => decodeF0 .rotate arg
  | 0x30 => decodeFM .rnext arg
  | 0x40 => decodeF0 .fx0 arg
  | 0x41 => decodeF0 .fx1 arg
  | 0x42 => decodeF0 .fx2 arg
  | 0x43 => decodeF0 .fx3 arg
  | 0x44 => decodeF0 .fx4 arg
  | 0x45 => decodeF0 .fx5 arg
  | 0x46 => decodeF0 .fx6 arg
  | 0x47 => decodeF0 .fx7 arg
  | 0x48 => decodeF0 .anext arg
  | 0x49 => decodeF0 .atick arg
  | 0x50 => decodeF0 .greset arg
  | 0x51 => decodeF0 .gstep arg
  | 0x52 => decodeF0 .gcatch arg
  | 0x53 => decodeF0 .grender arg
  | 0x54 => decodeF0 .gpoll arg
  | 0x55 => decodeF0 .ginit arg
  | 0x60 => decodeF0 .wfe arg
  | 0x61 => decodeFM .armwake arg
  | 0x62 => decodeFM .delayus arg
  | 0x63 => decodeFM .delayms arg
  | 0x64 => decodeF0 .rdcnt arg
  | 0x65 => decodeF0 .rdbtn arg
  | 0x66 => decodeF0 .irqoff arg
  | 0x67 => decodeF0 .irqon arg
  | 0x68 => decodeF0 .waitrel arg
  | 0x69 => decodeF0 .pincfg arg
  | _ => .error .reservedOp

/-- Decoding a descriptor (R121): total, rejecting by name. -/
def decode (w : Word) : Except DecodeError Instr := decodeFields (opField w).toNat (argField w)

/-- The operation code of R101's table. -/
def opcode : Instr → Byte
  | .sendbit _ => 0x00
  | .sendbyte _ => 0x01
  | .sendcolor _ _ _ => 0x02
  | .latch => 0x03
  | .showFrame => 0x04
  | .hue2rgb _ _ => 0x10
  | .hue2rgbl _ => 0x11
  | .pxset _ _ _ => 0x20
  | .pxget _ => 0x21
  | .fade => 0x22
  | .clear => 0x23
  | .fill _ _ => 0x24
  | .rotate => 0x25
  | .rnext _ => 0x30
  | .fx0 => 0x40
  | .fx1 => 0x41
  | .fx2 => 0x42
  | .fx3 => 0x43
  | .fx4 => 0x44
  | .fx5 => 0x45
  | .fx6 => 0x46
  | .fx7 => 0x47
  | .anext => 0x48
  | .atick => 0x49
  | .greset => 0x50
  | .gstep => 0x51
  | .gcatch => 0x52
  | .grender => 0x53
  | .gpoll => 0x54
  | .ginit => 0x55
  | .wfe => 0x60
  | .armwake _ => 0x61
  | .delayus _ => 0x62
  | .delayms _ => 0x63
  | .rdcnt => 0x64
  | .rdbtn => 0x65
  | .irqoff => 0x66
  | .irqon => 0x67
  | .waitrel => 0x68
  | .pincfg => 0x69

/-- `arg` as the formats place the operands, every other bit 0 (R103 to R110). -/
def encodeArg : Instr → BitVec 24
  | .sendbit b => (0 : BitVec 23) ++ b
  | .sendbyte v => (0 : BitVec 16) ++ v
  | .sendcolor r g b => r ++ g ++ b
  | .hue2rgb h l => (0 : BitVec 13) ++ l ++ h
  | .hue2rgbl h => (0 : BitVec 16) ++ h
  | .pxset i h l => i ++ (0 : BitVec 5) ++ l ++ h
  | .pxget i => i ++ (0 : BitVec 16)
  | .fill h l => (0 : BitVec 13) ++ l ++ h
  | .rnext m => m
  | .armwake n => n
  | .delayus n => n
  | .delayms n => n
  | .latch | .showFrame | .fade | .clear | .rotate
  | .fx0 | .fx1 | .fx2 | .fx3 | .fx4 | .fx5 | .fx6 | .fx7 | .anext | .atick
  | .greset | .gstep | .gcatch | .grender | .gpoll | .ginit
  | .wfe | .rdcnt | .rdbtn | .irqoff | .irqon | .waitrel | .pincfg => 0

/-- Encoding, the inverse of decoding (R121). -/
def encode (i : Instr) : Word := opcode i ++ encodeArg i

/-- The instruction the decoder reads from a row's bits: one word of 32 bits, bits above `nbits` zero. -/
def decodeTableWord (nbits w : Nat) : Option Instr :=
  match decode (BitVec.ofNat 32 (w % 2 ^ nbits)) with
  | .ok i => some i
  | .error _ => none

/-- The mnemonic of R101's table. -/
def mnemonic : Instr → String
  | .sendbit _ => "SENDBIT"
  | .sendbyte _ => "SENDBYTE"
  | .sendcolor _ _ _ => "SENDCOLOR"
  | .latch => "LATCH"
  | .showFrame => "SHOW"
  | .hue2rgb _ _ => "HUE2RGB"
  | .hue2rgbl _ => "HUE2RGBL"
  | .pxset _ _ _ => "PXSET"
  | .pxget _ => "PXGET"
  | .fade => "FADE"
  | .clear => "CLEAR"
  | .fill _ _ => "FILL"
  | .rotate => "ROTATE"
  | .rnext _ => "RNEXT"
  | .fx0 => "FX0"
  | .fx1 => "FX1"
  | .fx2 => "FX2"
  | .fx3 => "FX3"
  | .fx4 => "FX4"
  | .fx5 => "FX5"
  | .fx6 => "FX6"
  | .fx7 => "FX7"
  | .anext => "ANEXT"
  | .atick => "ATICK"
  | .greset => "GRESET"
  | .gstep => "GSTEP"
  | .gcatch => "GCATCH"
  | .grender => "GRENDER"
  | .gpoll => "GPOLL"
  | .ginit => "GINIT"
  | .wfe => "WFE"
  | .armwake _ => "ARMWAKE"
  | .delayus _ => "DELAYUS"
  | .delayms _ => "DELAYMS"
  | .rdcnt => "RDCNT"
  | .rdbtn => "RDBTN"
  | .irqoff => "IRQOFF"
  | .irqon => "IRQON"
  | .waitrel => "WAITREL"
  | .pincfg => "PINCFG"

/-- The operands in the order of R101's table. -/
def operands : Instr → List Nat
  | .sendbit b => [b.toNat]
  | .sendbyte v => [v.toNat]
  | .sendcolor r g b => [r.toNat, g.toNat, b.toNat]
  | .hue2rgb h l => [h.toNat, l.toNat]
  | .hue2rgbl h => [h.toNat]
  | .pxset i h l => [i.toNat, h.toNat, l.toNat]
  | .pxget i => [i.toNat]
  | .fill h l => [h.toNat, l.toNat]
  | .rnext m => [m.toNat]
  | .armwake n => [n.toNat]
  | .delayus n => [n.toNat]
  | .delayms n => [n.toNat]
  | .latch | .showFrame | .fade | .clear | .rotate
  | .fx0 | .fx1 | .fx2 | .fx3 | .fx4 | .fx5 | .fx6 | .fx7 | .anext | .atick
  | .greset | .gstep | .gcatch | .grender | .gpoll | .ginit
  | .wfe | .rdcnt | .rdbtn | .irqoff | .irqon | .waitrel | .pincfg => []

/-- The written form of an operation (R119): the mnemonic and its operands in decimal, separated by commas. -/
def written (i : Instr) : String :=
  match operands i with
  | [] => mnemonic i
  | xs => mnemonic i ++ " " ++ ", ".intercalate (xs.map toString)

end Sys2Proof
end

