-- ==== Sys2Proof/Config.lean ====
section
/-! DEFINITION. What an implementation of CORE fixes (00_scope.md R9 to R17): the parameters, their legal ranges and their
reference values; and the free values, constants without a body, of what the spec leaves open. -/

namespace Sys2Proof.Config

/-- Which instance of `speed_after_underflow` the implementation has (93_implementation_defined.md U1): the reference
instance, which wraps modulo 2^32, or any other function, of which nothing is known. -/
inductive Underflow where
  /-- The reference instance: the decrement modulo 2^32 (44_game.md R224). -/
  | wraps
  /-- Some other instance: the free value `speedAfterUnderflow`. -/
  | unknown
deriving DecidableEq, Repr

/-- The implementation parameters (00_scope.md R9 to R16). Nothing writes them (10_state.md R30). -/
structure Params where
  /-- N, the number of pixels (R9). -/
  n : Nat
  /-- The strap pins: bit 0 ENGINE, bit 1 ORDER, bit 2 CVAR (R10, R16, 10_state.md R32). -/
  straps : BitVec 3
  /-- GAMMA, the contents of the gamma ROM (R11). -/
  gamma : List Byte
  /-- SEED (R12). -/
  seed : Word
  /-- AUTO_TICKS (R13). -/
  autoTicks : Nat
  /-- REFRESH_MS (R13). -/
  refreshMs : BitVec 24
  /-- T_WINDOW_NS (R14). -/
  tWindowNs : Nat
  /-- T_LATCH_NS (R14). -/
  tLatchNs : Nat
  /-- S0 (R15). -/
  s0 : Word
  /-- SPEED_DEC (R15). -/
  speedDec : Word
  /-- SETTLE_MS (R15). -/
  settleMs : BitVec 24
  /-- DRIFT_MAX (R16). -/
  driftMax : Nat
  /-- The instance of speed_after_underflow (93_implementation_defined.md U1). -/
  underflow : Underflow
deriving DecidableEq, Repr

/-- T0H_LIMIT_NS (00_scope.md R14): the high time of a 0 bit is below it. -/
def t0hLimitNs : Nat := 500

/-- T1H_MIN_NS (00_scope.md R14): the high time of a 1 bit is at least it. -/
def t1hMinNs : Nat := 625

/-- The picoseconds of `k` nanoseconds: the durations of W are whole picoseconds. DESIGN CHOICE (log 5): 40_transmitter.md
R130 allows nanoseconds or reals, and below a legal window of 1 ns there is no whole nanosecond. -/
def ns (k : Nat) : Nat := 1000 * k

/-- The three invariants of the gamma table, and its size (00_scope.md R11). -/
abbrev GammaLegal (g : List Byte) : Prop :=
  g.length = 64 ∧ g.getD 0 0 = 0 ∧ g.getD 63 0 = 255 ∧ g.Pairwise (· ≤ ·)

/-- The legal ranges of the parameters (00_scope.md R9 to R16). -/
abbrev Params.Legal (p : Params) : Prop :=
  (1 ≤ p.n ∧ p.n ≤ 255) ∧ GammaLegal p.gamma ∧ (1 ≤ p.autoTicks ∧ p.autoTicks ≤ 255) ∧ p.refreshMs ≠ 0 ∧
    (0 < p.tWindowNs ∧ p.tWindowNs ≤ p.tLatchNs) ∧
    (1 ≤ p.driftMax ∧ p.driftMax ≤ 192)

/-- `GAMMA_REF[i]` (00_scope.md R11, 41_color_model.md R151). -/
def gammaRefAt (i : Nat) : Byte := BitVec.ofNat 8 ((255 * i * i + 1984) / 3969)

/-- The reference gamma table (41_color_model.md R151). -/
def gammaRef : List Byte := (List.range 64).map gammaRefAt

/-- The reference values of the parameters (00_scope.md R9 to R16). DESIGN CHOICE (log 4): T_WINDOW_NS has no reference
value; 50000 is the value of the example in 95_test_vectors.md part 2. -/
def reference : Params where
  n := 16
  straps := 0
  gamma := gammaRef
  seed := 0xDEADBEEF
  autoTicks := 76
  refreshMs := 64
  tWindowNs := 50000
  tLatchNs := 280000
  s0 := 1000
  speedDec := 50
  settleMs := 10
  driftMax := 4
  underflow := .wraps

/-- FREE VALUE (00_scope.md R22, 93_implementation_defined.md U18): what the environment picks at the k-th draw of a
duration, in picoseconds, before the draw's bounds are applied. DESIGN CHOICE (log 5). -/
opaque freeDuration : Nat → Nat

/-- FREE VALUE (93_implementation_defined.md U1): the speed after a catch with SPEED < SPEED_DEC in an implementation
that is not the reference instance, from the speed before it. DESIGN CHOICE (log 6). -/
opaque speedAfterUnderflow : Word → Word

/-- FREE VALUE: CNT_HZ, the rate of the external counter (00_scope.md R17). It is OPEN and no rule reads it (log 4). -/
opaque cntHz : Nat

end Sys2Proof.Config
end

