-- ==== Sys2Proof/Machine/State.lean ====
section
/-! DEFINITION. The state of CORE (10_state.md), the record of its output (40_transmitter.md R130), the environment
(46_system.md R276), and the reasons for which a step stops (60_exceptions.md R290, R291). -/

namespace Sys2Proof.Machine

/-- A segment of the wire history (00_scope.md R23): the line high or low for that many picoseconds
(log 5). -/
inductive Segment where
  /-- H(d). -/
  | high (d : Nat)
  /-- L(d). -/
  | low (d : Nat)
deriving DecidableEq, Repr

/-- A symbol of the symbol history (00_scope.md R23). -/
inductive Symbol where
  /-- A 0 bit. -/
  | b0
  /-- A 1 bit. -/
  | b1
  /-- A latch gap. -/
  | latch
deriving DecidableEq, Repr

/-- What the model records of the output (00_scope.md R23, 40_transmitter.md R130), NEWEST FIRST, and how many
durations have been drawn. It is no state of the hardware (10_state.md R30). -/
structure Line where
  /-- W, newest segment first. -/
  segs : List Segment
  /-- WS, newest symbol first. -/
  syms : List Symbol
  /-- MODEL's own: the number of durations drawn so far, the argument of `Config.freeDuration` (log 5). -/
  draws : Nat
deriving DecidableEq, Repr

/-- The unit of a delay request (10_state.md R55, port `dly_unit`). -/
inductive DelayUnit where
  /-- `dly_unit` = 0. -/
  | us
  /-- `dly_unit` = 1. -/
  | ms
deriving DecidableEq, Repr

/-- What the operation in progress waits for (00_scope.md R8, 46_system.md R259 to R261, R265). -/
inductive Hold where
  /-- No operation is waiting. -/
  | running
  /-- WFE waits for an event; the port `idle` is 1. -/
  | event
  /-- WAITREL waits for the button's release. -/
  | release
  /-- DELAYUS, DELAYMS or LATCH waits for `dly_done`, `n` units after its request; the port `dly_req` is 1 (log 9). -/
  | delay (unit : DelayUnit) (n : Nat)
deriving DecidableEq, Repr

/-- The environment's moves (46_system.md R276), the reset pin (70_reset_and_hazards.md R320), and the end of a turn. -/
inductive EnvEvent where
  /-- EnvTime(k). -/
  | time (k : Nat)
  /-- EnvBtn(v): the line `btn_n` goes to the level v (true is 1, released). -/
  | btn (v : Bool)
  /-- EnvTick. -/
  | tick
  /-- EnvDelayDone. -/
  | delayDone
  /-- The port `rst_n` is pulsed (R320). It ends the turn. -/
  | reset
  /-- MODEL's own: the environment's turn ends here (log 1). -/
  | turnEnd
deriving DecidableEq, Repr

/-- The environment (46_system.md R276): its own state and its moves to come (log 1). -/
structure Env where
  /-- The level of `btn_n`: true is 1, released; false is 0, pressed (46_system.md R257). -/
  btnN : Bool
  /-- The external counter (00_scope.md R17). -/
  cnt : Word
  /-- The port `dly_done` (10_state.md R55): the requested delay has elapsed. -/
  dlyDone : Bool
  /-- MODEL's own: the environment's moves to come, earliest first (log 1). -/
  script : List EnvEvent
deriving DecidableEq, Repr

/-- The pixel strip PS (10_state.md R50) as a list of its entries that are not 0, addresses strictly rising; an
address that is not listed reads 0, the reset value (R58, log 15). The unit of addressing is one entry of 11 bits
(20_memory.md R70). -/
abbrev Memory := List (Nat × Entry)

/-- The labels of the sequencer (46_system.md R266). -/
inductive Label where
  /-- BOOT, code 0. -/
  | boot
  /-- A_EXEC, code 1. -/
  | aExec
  /-- A_TICK, code 2. -/
  | aTick
  /-- A_SLEEP, code 3. -/
  | aSleep
  /-- A_BTN, code 4. -/
  | aBtn
  /-- A_HOLD, code 5. -/
  | aHold
  /-- A_SETTLE, code 6. -/
  | aSettle
  /-- G_INIT, code 7. -/
  | gInit
  /-- G_POLL, code 8. -/
  | gPoll
  /-- G_HOLD, code 9. -/
  | gHold
  /-- G_SETTLE, code 10. -/
  | gSettle
deriving DecidableEq, Repr

/-- Which of a label's operations is next: a label "issues the operations listed, in order" (46_system.md R266), each in a
step of its own (00_scope.md R8, log 10). BOOT has three, A_BTN two, every other label one. -/
inductive LabelPart where
  /-- The first: PINCFG of BOOT, RDBTN of A_BTN, the only one of another label. -/
  | first
  /-- The second: RDBTN of BOOT, ANEXT of A_BTN. -/
  | second
  /-- The third: ARMWAKE of BOOT. -/
  | third
deriving DecidableEq, Repr

/-- The state: the 18 registers of 10_state.md R31 in order, the strip, the ports and waits, the record of the output,
the client's descriptors, the environment, and the parameters. -/
structure State where
  /-- CFG (R32). -/
  cfg : BitVec 3
  /-- STAT (R33). -/
  stat : BitVec 8
  /-- SEQ (R34). -/
  seq : BitVec 4
  /-- AST (R35). -/
  ast : BitVec 3
  /-- TCNT (R36). -/
  tcnt : BitVec 8
  /-- CA (R37). -/
  ca : BitVec 16
  /-- CB (R38). -/
  cb : BitVec 16
  /-- GHUE (R39). -/
  ghue : Byte
  /-- S, the PRNG state (R40). -/
  prng : Word
  /-- RV (R41). -/
  rv : Word
  /-- RGB (R42). -/
  rgb : Rgb
  /-- PXR (R43). -/
  pxr : Entry
  /-- HUNTER (R44). -/
  hunter : Byte
  /-- DEER (R45). -/
  deer : Byte
  /-- DIR (R46). -/
  dir : BitVec 1
  /-- SPEED (R47). -/
  speed : Word
  /-- DEADLINE (R48). -/
  deadline : Word
  /-- TNOW (R49). -/
  tnow : Word
  /-- PS (R50). -/
  strip : Memory
  /-- The last request on the ports `arm_req`, `arm_ms` (R55, 46_system.md R262); `none` while there was none. -/
  armMs : Option (BitVec 24)
  /-- What the operation in progress waits for (46_system.md R266). -/
  hold : Hold
  /-- Which operation of the label SEQ comes next (46_system.md R266, log 10). -/
  part : LabelPart
  /-- W, WS (the model's record). -/
  line : Line
  /-- MODEL's own: the descriptors a client has issued, the next one first (30_encoding.md R119, log 3). -/
  pending : List Word
  /-- The environment (46_system.md R276). -/
  env : Env
  /-- The implementation parameters; never written (R30, R59). -/
  par : Config.Params
deriving DecidableEq, Repr

/-- There is no fault: "CORE has no exception, no trap, no fault and no error code" (60_exceptions.md R290). -/
inductive Fault
deriving DecidableEq, Repr

/-- Refusal reasons (60_exceptions.md R291). A refusal writes nothing. Each is safe: it is the spec's own marker for a
request outside the domain, except where its docstring says otherwise. -/
inductive Refusal where
  /-- An operation of exec that has no meaning in the model yet; raised by exec's refused arms. Safe. -/
  | notModelled (mnemonic : String)
  /-- Raised by the issue of a descriptor that does not decode (30_encoding.md R114, R121). Safe. -/
  | reservedDescriptor
  /-- Raised by HUE2RGB, HUE2RGBL, PXSET, FILL for a hue above 191 (R291), and by a frame of a strip that holds such a
  hue, which no run reaches (41_color_model.md R154). Safe. -/
  | hueOutOfRange
  /-- Raised by HUE2RGB, PXSET, FILL for level 7 (R291), and by a frame of a strip that holds such a level, which no run
  reaches (41_color_model.md R154). Safe. -/
  | levelOutOfRange
  /-- Raised by RNEXT 0 (45_prng.md R247). Safe. -/
  | zeroModulus
  /-- Raised by ARMWAKE 0 (46_system.md R262). Safe. -/
  | zeroPeriod
  /-- Raised by LATCH, WFE, WAITREL, DELAYUS, DELAYMS while STAT.IM = 1 (40_transmitter.md R137). Safe. -/
  | holdInCritical
  /-- The model's own: raised by the sequencer when SEQ holds 11 to 15, which are "never held" (10_state.md R34,
  log 11). Safe. -/
  | noSuchLabel
deriving DecidableEq, Repr

/-- The outcome of an operation (00_scope.md R21): it completes or holds (both are a next state), or is refused. -/
abbrev Result := Host.Outcome State Fault Refusal

/-- The state after reset with parameters `p` (10_state.md R58, 70_reset_and_hazards.md R321). The environment's part
is DESIGN CHOICE (log 7): "initially any" (46_system.md R276). -/
def State.resetOf (p : Config.Params) : State where
  cfg := p.straps
  stat := 0
  seq := 0
  ast := 0
  tcnt := 0
  ca := 0
  cb := 0
  ghue := 0
  prng := p.seed
  rv := 0
  rgb := 0
  pxr := 0
  hunter := 0
  deer := 0
  dir := 0
  speed := p.s0
  deadline := 0
  tnow := 0
  strip := []
  armMs := none
  hold := .running
  part := .first
  line := ⟨[], [], 0⟩
  pending := []
  env := ⟨true, 0, false, []⟩
  par := p

/-- The machine right after reset, with the reference parameters (log 4). -/
def State.reset : State := State.resetOf Config.reference

end Sys2Proof.Machine
end

