-- ==== Sys2Proof/Machine/Flags.lean ====
section
/-! DEFINITION. The one-bit state of CORE: the fields of STAT (10_state.md R33) and CFG (R32). CORE has no arithmetic
flags (R52). -/

namespace Sys2Proof.Machine

/-- Bit `i` of an 8-bit register set to `b`, the other bits kept. -/
def setBit8 (v : BitVec 8) (i : Nat) (b : Bool) : BitVec 8 :=
  if b then v ||| (1#8 <<< i) else v &&& ~~~(1#8 <<< i)

/-- CFG.ENGINE, bit 0: false is the AnimationEngine, true the GameEngine (R32). -/
def State.engine (s : State) : Bool := s.cfg.getLsbD 0

/-- CFG.ORDER, bit 1: false is G,R,B, true is R,G,B (R32). -/
def State.order (s : State) : Bool := s.cfg.getLsbD 1

/-- CFG.CVAR, bit 2: false is the gamma conversion, true the linear one (R32). -/
def State.cvar (s : State) : Bool := s.cfg.getLsbD 2

/-- STAT.WAKE, bit 0: the wake flag (R33). -/
def State.wake (s : State) : Bool := s.stat.getLsbD 0

/-- STAT.IM, bit 1: interrupts masked (R33). -/
def State.im (s : State) : Bool := s.stat.getLsbD 1

/-- STAT.MAN, bit 2: manual mode (R33). -/
def State.man (s : State) : Bool := s.stat.getLsbD 2

/-- STAT.BS, bit 3: the last sample of the button, 1 is pressed (R33). -/
def State.bs (s : State) : Bool := s.stat.getLsbD 3

/-- STAT.TARM, bit 4: the periodic timer is armed (R33). -/
def State.tarm (s : State) : Bool := s.stat.getLsbD 4

/-- STAT.BARM, bit 5: the press edge is armed (R33). -/
def State.barm (s : State) : Bool := s.stat.getLsbD 5

/-- STAT.DOUT, bit 6: the level driven on `dout` (R33). -/
def State.dout (s : State) : Bool := s.stat.getLsbD 6

/-- STAT.OE, bit 7: the data pin is an output (R33). -/
def State.oe (s : State) : Bool := s.stat.getLsbD 7

/-- Bit `i` of STAT written. -/
def State.setStat (i : Nat) (b : Bool) (s : State) : State := { s with stat := setBit8 s.stat i b }

/-- STAT.WAKE <- b. -/
def State.setWake (b : Bool) (s : State) : State := s.setStat 0 b

/-- STAT.IM <- b. -/
def State.setIm (b : Bool) (s : State) : State := s.setStat 1 b

/-- STAT.MAN <- b. -/
def State.setMan (b : Bool) (s : State) : State := s.setStat 2 b

/-- STAT.BS <- b. -/
def State.setBs (b : Bool) (s : State) : State := s.setStat 3 b

/-- STAT.TARM <- b. -/
def State.setTarm (b : Bool) (s : State) : State := s.setStat 4 b

/-- STAT.BARM <- b. -/
def State.setBarm (b : Bool) (s : State) : State := s.setStat 5 b

/-- STAT.DOUT <- b. -/
def State.setDout (b : Bool) (s : State) : State := s.setStat 6 b

/-- STAT.OE <- b. -/
def State.setOe (b : Bool) (s : State) : State := s.setStat 7 b

end Sys2Proof.Machine
end

