-- ==== Sys2Proof/Machine/Operands.lean ====
section
/-! DEFINITION. The fields of registers and strip entries (20_memory.md R78), the reduction of indices (R73), and the
registers by number (10_state.md R31). -/

namespace Sys2Proof.Machine

/-- `HUE` of an entry, bits 7:0 (20_memory.md R71). -/
def entryHue (e : Entry) : Byte := e.extractLsb' 0 8

/-- `BRI` of an entry, bits 10:8 (20_memory.md R71). -/
def entryLevel (e : Entry) : Level := e.extractLsb' 8 3

/-- The entry {l, h} (20_memory.md R72). -/
def mkEntry (h : Byte) (l : Level) : Entry := l ++ h

/-- `HUE[i] <- h` keeps the level (20_memory.md R72). -/
def withHue (h : Byte) (e : Entry) : Entry := mkEntry h (entryLevel e)

/-- `BRI[i] <- l` keeps the hue (20_memory.md R72). -/
def withLevel (l : Level) (e : Entry) : Entry := mkEntry (entryHue e) l

/-- `idx` of a comet register, bits 7:0 (10_state.md R37). -/
def cometIdx (c : BitVec 16) : Byte := c.extractLsb' 0 8

/-- `hue` of a comet register, bits 15:8 (10_state.md R37). -/
def cometHue (c : BitVec 16) : Byte := c.extractLsb' 8 8

/-- The comet register {hue, idx} (10_state.md R37). -/
def mkComet (hue idx : Byte) : BitVec 16 := hue ++ idx

/-- r of a triplet, bits 23:16 (10_state.md R42). -/
def red (c : Rgb) : Byte := c.extractLsb' 16 8

/-- g of a triplet, bits 15:8 (10_state.md R42). -/
def green (c : Rgb) : Byte := c.extractLsb' 8 8

/-- b of a triplet, bits 7:0 (10_state.md R42). -/
def blue (c : Rgb) : Byte := c.extractLsb' 0 8

/-- The triplet {r, g, b} (10_state.md R42). -/
def mkRgb (r g b : Byte) : Rgb := r ++ g ++ b

/-- Circular addressing: an index reduced modulo N (20_memory.md R73). -/
def State.wrap (s : State) (i : Nat) : Nat := i % s.par.n

/-- `x[k]`, the register with number k (10_state.md R31), zero-extended; there are 18. -/
def State.x (k : Nat) (s : State) : Option Word :=
  match k with
  | 0 => some (s.cfg.setWidth 32)
  | 1 => some (s.stat.setWidth 32)
  | 2 => some (s.seq.setWidth 32)
  | 3 => some (s.ast.setWidth 32)
  | 4 => some (s.tcnt.setWidth 32)
  | 5 => some (s.ca.setWidth 32)
  | 6 => some (s.cb.setWidth 32)
  | 7 => some (s.ghue.setWidth 32)
  | 8 => some s.prng
  | 9 => some s.rv
  | 10 => some (s.rgb.setWidth 32)
  | 11 => some (s.pxr.setWidth 32)
  | 12 => some (s.hunter.setWidth 32)
  | 13 => some (s.deer.setWidth 32)
  | 14 => some (s.dir.setWidth 32)
  | 15 => some s.speed
  | 16 => some s.deadline
  | 17 => some s.tnow
  | _ => none

/-- The width of register k in bits (10_state.md R31). -/
def regWidth (k : Nat) : Option Nat :=
  match k with
  | 0 => some 3
  | 1 => some 8
  | 2 => some 4
  | 3 => some 3
  | 4 => some 8
  | 5 => some 16
  | 6 => some 16
  | 7 => some 8
  | 8 => some 32
  | 9 => some 32
  | 10 => some 24
  | 11 => some 11
  | 12 => some 8
  | 13 => some 8
  | 14 => some 1
  | 15 => some 32
  | 16 => some 32
  | 17 => some 32
  | _ => none

end Sys2Proof.Machine
end

