-- ==== Sys2Proof/Machine/Ops.lean ====
section
/-! DEFINITION. The shared operations: sequencing, the strip as a memory, the wire and its record, samples of the
environment, waits, and the taking of a wake event. -/

namespace Sys2Proof.Machine

/-- First `r`, then `f` on the state it leaves; a refusal ends the operation and writes nothing (60_exceptions.md R290). -/
def andThen (r : Result) (f : State → Result) : Result :=
  match r with
  | .next s => f s
  | .fault e => .fault e
  | .refused q => .refused q

/-- The loop "for p in ps" over a body that may refuse. -/
def forEach (f : Nat → State → Result) : List Nat → State → Result
  | [], s => .next s
  | p :: ps, s => andThen (f p s) (forEach f ps)

/-! ### The strip (20_memory.md R70 to R73) -/

/-- Strip read (R71): an entry that is not listed reads 0. -/
def Memory.read : Memory → Nat → Entry
  | [], _ => 0
  | (k, w) :: m, a => if k = a then w else Memory.read m a

/-- Strip write (R72): the list stays in its canonical form, addresses rising and no entry 0. -/
def Memory.write : Memory → Nat → Entry → Memory
  | [], a, v => if v = 0 then [] else [(a, v)]
  | (k, w) :: m, a, v =>
    if a < k then (if v = 0 then (k, w) :: m else (a, v) :: (k, w) :: m)
    else if a = k then (if v = 0 then m else (a, v) :: m)
    else (k, w) :: Memory.write m a v

/-- The canonical form of the strip: addresses strictly rising, and no entry that reads as an unlisted one. -/
abbrev Memory.wf (m : Memory) : Prop := m.Pairwise (·.1 < ·.1) ∧ ∀ c ∈ m, c.2 ≠ 0

/-- "for p = 0 to n - 1: entry p <- f p (entry p)". -/
def Memory.mapFirst (n : Nat) (f : Nat → Entry → Entry) (m : Memory) : Memory :=
  (List.range n).foldl (fun m p => m.write p (f p (m.read p))) m

/-- The strip with entry `a` written. -/
def State.putEntry (a : Nat) (e : Entry) (s : State) : State := { s with strip := s.strip.write a e }

/-! ### The wire (40_transmitter.md R130 to R132) -/

/-- `extend(d)` (R130): time passes with the line low, `d` picoseconds. -/
def extendSegs (d : Nat) : List Segment → List Segment
  | .low e :: r => .low (e + d) :: r
  | w => if d = 0 then w else .low d :: w

/-- The high time of a bit, from the value `f` that the environment picks: every value within the bounds of R131 is
reached, and no other. -/
def highTime (b : Bool) (f : Nat) : Nat :=
  if b then Config.ns Config.t1hMinNs + f else 1 + f % (Config.ns Config.t0hLimitNs - 1)

/-- The low time after a pulse (R132): positive, and below the window (in nanoseconds) when the gap is tight. -/
def lowTime (tight : Bool) (window f : Nat) : Nat :=
  if tight then 1 + f % (Config.ns window - 1) else 1 + f

/-- The symbol of a bit. -/
def bitSymbol (b : Bool) : Symbol := if b then .b1 else .b0

/-- W holds what CORE has driven on `dout` (00_scope.md R23): while STAT.OE = 0 the line is not driven and "`W` records
nothing for that time" (93_implementation_defined.md U12, log 12). `new` is what W becomes when the line is driven. -/
def ifDriven (oe : Bool) (new old : List Segment) : List Segment := if oe then new else old

/-- What `pulse` adds to the record (R132): H(dh) and L(dl) to W, the symbol of the bit to WS; two durations are drawn. -/
def Line.pulse (oe : Bool) (window : Nat) (b tight : Bool) (l : Line) : Line :=
  ⟨ifDriven oe (.low (lowTime tight window (Config.freeDuration (l.draws + 1))) ::
      .high (highTime b (Config.freeDuration l.draws)) :: l.segs) l.segs,
    bitSymbol b :: l.syms, l.draws + 2⟩

/-- "draw d : d >= m ; extend(d)": at least `m` nanoseconds pass with the line low; one duration is drawn. -/
def Line.elapse (oe : Bool) (m : Nat) (l : Line) : Line :=
  ⟨ifDriven oe (extendSegs (Config.ns m + Config.freeDuration l.draws) l.segs) l.segs, l.syms, l.draws + 1⟩

/-- The record gains a symbol. -/
def Line.mark (y : Symbol) (l : Line) : Line := ⟨l.segs, y :: l.syms, l.draws⟩

/-- `pulse(b, tight)` (R132): STAT.DOUT goes up and down, and the record gains the pulse. -/
def State.pulse (b tight : Bool) (s : State) : State :=
  let up := s.setDout true
  let down := up.setDout false
  { down with line := s.line.pulse s.oe s.par.tWindowNs b tight }

/-- At least `m` nanoseconds pass with the line low. -/
def State.elapse (m : Nat) (s : State) : State := { s with line := s.line.elapse s.oe m }

/-- The end of a sending operation (R132): STAT.IM takes the value `old` it had on entry, and when that is 0 any time
may pass. -/
def State.leaveCritical (old : Bool) (s : State) : State :=
  if old then s.setIm true else (s.setIm false).elapse 0

/-- The latch gap itself (R135): the line stays low for at least T_LATCH_NS more, and the record gains `latch`. -/
def State.latchGap (s : State) : State :=
  { s with line := (s.line.elapse s.oe s.par.tLatchNs).mark .latch }

/-! ### Samples of the environment (46_system.md R257, R258, R276) -/

/-- One sample of the button (R257): STAT.BS is 1 when the line is low. -/
def State.sampleButton (s : State) : State := s.setBs (!s.env.btnN)

/-- One sample of the counter (R258). -/
def State.sampleCounter (s : State) : State := { s with tnow := s.env.cnt }

/-! ### Waits (46_system.md R259 to R261, R265) -/

/-- What the operation in progress waits for. -/
def State.setHold (h : Hold) (s : State) : State := { s with hold := h }

/-- A wait inside the critical section is refused (40_transmitter.md R137). -/
def unlessCritical (s : State) (r : Result) : Result :=
  if s.im then .refused .holdInCritical else r

/-- Request a delay of `n` units and hold until `dly_done` (R259, R260); `finish` is what completes the operation.
A delay of 0 completes at once. The first step of the wait makes the request, a later one finds whether it is over. -/
def State.waitDelay (u : DelayUnit) (n : Nat) (finish : State → State) (s : State) : Result :=
  if n = 0 then .next (finish (s.setHold .running))
  else if s.hold = .delay u n then
    if s.env.dlyDone then .next (finish { s with hold := .running, env := { s.env with dlyDone := false } })
    else .next s
  else .next { s with hold := .delay u n, env := { s.env with dlyDone := false } }

/-! ### Wake events (60_exceptions.md R292 to R297) -/

/-- TAKING A WAKE EVENT, the interrupt analogue (R296): STAT.WAKE <- 1, "That is all". There is no return (R297). -/
def State.takeWake (s : State) : State := s.setWake true

end Sys2Proof.Machine
end

