-- ==== Sys2Proof/Machine/PixelStrip.lean ====
section
/-! DEFINITION. The PixelStrip (42_pixel_strip.md): PXSET, PXGET, FADE, CLEAR, FILL, ROTATE. -/

namespace Sys2Proof.Machine

/-- "full brightness" is level 6 (43_animation.md R187). -/
def fullLevel : Level := 6

/-- The refusals of an operand pair hue and level, hue first (R166, R169). -/
def unlessOutOfRange (h : Byte) (l : Level) (r : Result) : Result :=
  if 191 < h.toNat then .refused .hueOutOfRange
  else if 6 < l.toNat then .refused .levelOutOfRange
  else r

/-- The body of PXSET (R166): the index is reduced modulo N. -/
def State.storePixel (i : Nat) (h : Byte) (l : Level) (s : State) : Result :=
  unlessOutOfRange h l (.next (s.putEntry (s.wrap i) (mkEntry h l)))

/-- One brightness step down, saturating at 0 (R167). -/
def dimEntry (e : Entry) : Entry :=
  if entryLevel e = 0 then e else withLevel (entryLevel e - 1) e

/-- The body of FADE (R167). -/
def State.fadeStrip (s : State) : State :=
  { s with strip := s.strip.mapFirst s.par.n fun _ e => dimEntry e }

/-- The body of CLEAR (R168): hues are kept. -/
def State.clearStrip (s : State) : State :=
  { s with strip := s.strip.mapFirst s.par.n fun _ e => withLevel 0 e }

/-- The body of FILL (R169). -/
def State.fillStrip (h : Byte) (l : Level) (s : State) : Result :=
  unlessOutOfRange h l (.next { s with strip := s.strip.mapFirst s.par.n fun _ _ => mkEntry h l })

/-- "for p = n - 1 downto 1: entry p <- entry (p - 1)" (R170): the innermost write is the first. -/
def Memory.shiftUp (n : Nat) (m : Memory) : Memory :=
  (List.range (n - 1)).foldr (fun p m => m.write (p + 1) (m.read p)) m

/-- The body of ROTATE (R170): each entry moves to the next higher index, the last to 0. -/
def State.rotateStrip (s : State) : State :=
  { s with strip := (s.strip.shiftUp s.par.n).write 0 (s.strip.read (s.par.n - 1)) }

/-- PXSET i, h, l (R166). -/
def execPxset (i h : Byte) (l : Level) (s : State) : Result := s.storePixel i.toNat h l

/-- PXGET i (R171). -/
def execPxget (i : Byte) (s : State) : Result := .next { s with pxr := s.strip.read (s.wrap i.toNat) }

/-- FADE (R167). -/
def execFade (s : State) : Result := .next s.fadeStrip

/-- CLEAR (R168). -/
def execClear (s : State) : Result := .next s.clearStrip

/-- FILL h, l (R169). -/
def execFill (h : Byte) (l : Level) (s : State) : Result := s.fillStrip h l

/-- ROTATE (R170). -/
def execRotate (s : State) : Result := .next s.rotateStrip

end Sys2Proof.Machine
end

