-- ==== Sys2Proof/Machine/Prng.lean ====
section
/-! DEFINITION. The generator (45_prng.md): `upd`, `next(m)` and RNEXT. -/

namespace Sys2Proof.Machine

/-- The state update `upd` (45_prng.md R246); each left shift keeps the low 32 bits. -/
def prngUpd (s : Word) : Word :=
  let a := s <<< 16
  let t := (s <<< 1) ^^^ (s <<< 2)
  let b := t >>> 16
  a ||| b

/-- `next(m)` (45_prng.md R247): the state is updated first, then reduced; the result is left in RV. -/
def prngNext (m : Nat) (s : State) : Result :=
  if m = 0 then .refused .zeroModulus
  else
    let v := prngUpd s.prng
    .next { s with prng := v, rv := BitVec.ofNat 32 (v.toNat % m) }

/-- RNEXT m (45_prng.md R247). -/
def execRnext (m : BitVec 24) (s : State) : Result := prngNext m.toNat s

end Sys2Proof.Machine
end

