-- ==== Sys2Proof/Machine/ColorModel.lean ====
section
/-! DEFINITION. The ColorModel (41_color_model.md): the two conversions, `Convert`, HUE2RGB and HUE2RGBL. -/

namespace Sys2Proof.Machine

/-- `MemRead(GR:i, 8)` (20_memory.md R74). -/
def gammaAt (gamma : List Byte) (i : Nat) : Byte := gamma.getD i 0

/-- The phase mapping (41_color_model.md R152): the falling channel `n` and the rising channel `c`. -/
def phaseMap (phase : Nat) (n c : Byte) : Rgb :=
  if phase = 0 then mkRgb n c 0 else if phase = 1 then mkRgb 0 n c else mkRgb c 0 n

/-- The gamma conversion `hue2rgb` (41_color_model.md R152). -/
def hue2rgb (gamma : List Byte) (h : Byte) (l : Level) : Except Refusal Rgb :=
  if 191 < h.toNat then .error .hueOutOfRange
  else if 6 < l.toNat then .error .levelOutOfRange
  else
    let phase := h.toNat / 64
    let step := h.toNat % 64
    let sh := 6 - l.toNat
    let col := gammaAt gamma (step >>> sh)
    let ncol := gammaAt gamma ((63 - step) >>> sh)
    .ok (phaseMap phase ncol col)

/-- The linear conversion `hue2rgbl` (41_color_model.md R153). -/
def hue2rgbl (h : Byte) : Except Refusal Rgb :=
  if 191 < h.toNat then .error .hueOutOfRange
  else
    let phase := h.toNat / 64
    let s := (h &&& 63) <<< 2
    let ns := 252 - s
    .ok (phaseMap phase ns s)

/-- `Convert` of an entry, without the write of RGB (41_color_model.md R154). -/
def convert (cvar : Bool) (gamma : List Byte) (e : Entry) : Except Refusal Rgb :=
  if cvar then (if entryLevel e = 0 then .ok 0 else hue2rgbl (entryHue e))
  else hue2rgb gamma (entryHue e) (entryLevel e)

/-- RGB <- the result of a conversion. -/
def State.putColour (c : Except Refusal Rgb) (s : State) : Result :=
  match c with
  | .error q => .refused q
  | .ok v => .next { s with rgb := v }

/-- HUE2RGB h, l (41_color_model.md R152). -/
def execHue2rgb (h : Byte) (l : Level) (s : State) : Result := s.putColour (hue2rgb s.par.gamma h l)

/-- HUE2RGBL h (41_color_model.md R153). -/
def execHue2rgbl (h : Byte) (s : State) : Result := s.putColour (hue2rgbl h)

end Sys2Proof.Machine
end

