-- ==== Sys2Proof/Machine/Transmitter.lean ====
section
/-! DEFINITION. The ProtocolTransmitter (40_transmitter.md): SENDBIT, SENDBYTE, SENDCOLOR, LATCH, SHOW. -/

namespace Sys2Proof.Machine

/-- The body of SENDBIT (R132). -/
def State.sendBit (b : Bool) (s : State) : State :=
  (((s.setIm true).pulse b s.im)).leaveCritical s.im

/-- The eight pulses of a byte (R133): bits 7 to 1 with tight gaps, then bit 0 with the gap the caller allows. -/
def State.bytePulses (v : Byte) (old : Bool) (s : State) : State :=
  (([7, 6, 5, 4, 3, 2, 1] : List Nat).foldl (fun s k => s.pulse (v.getLsbD k) true) s).pulse (v.getLsbD 0) old

/-- The body of SENDBYTE (R133). -/
def State.sendByte (v : Byte) (s : State) : State :=
  ((s.setIm true).bytePulses v s.im).leaveCritical s.im

/-- The channel bytes of a triplet in wire order (20_memory.md R76): g, r, b for ORDER 0; r, g, b for ORDER 1. -/
def wireBytes (order : Bool) (c : Rgb) : List Byte :=
  if order then [red c, green c, blue c] else [green c, red c, blue c]

/-- The body of SENDCOLOR (R134): three bytes, each of which sees STAT.IM = 1. -/
def State.sendColor (c : Rgb) (s : State) : State :=
  ((wireBytes s.order c).foldl (fun s v => s.sendByte v) (s.setIm true)).leaveCritical s.im

/-- The triplets of the pixels `ps` as SHOW converts them (R136), or the first refusal of a conversion. SHOW does not
write the strip, so all conversions may be made before the first pulse. -/
def coloursOf (s : State) : List Nat → Except Refusal (List Rgb)
  | [] => .ok []
  | p :: ps =>
    match convert s.cvar s.par.gamma (s.strip.read p) with
    | .error q => .error q
    | .ok c =>
      match coloursOf s ps with
      | .error q => .error q
      | .ok cs => .ok (c :: cs)

/-- The triplets of the whole frame, entry 0 first (20_memory.md R77). -/
def State.frameColours (s : State) : Except Refusal (List Rgb) := coloursOf s (List.range s.par.n)

/-- One pixel of a frame: RGB takes the triplet, which is then sent. -/
def State.sendPixel (s : State) (c : Rgb) : State := ({ s with rgb := c } : State).sendColor c

/-- The pulses and the latch gap of a frame (R136): the critical section is open from the first pulse to the last; the
gap is waited out inside the operation, which stays one step (46_system.md R277, log 9). -/
def State.sendFrame (cs : List Rgb) (s : State) : State :=
  ((cs.foldl State.sendPixel (s.setIm true)).leaveCritical false).latchGap

/-- The body of SHOW (R136). -/
def State.showStrip (s : State) : Result :=
  match s.frameColours with
  | .error q => .refused q
  | .ok cs => .next (s.sendFrame cs)

/-- The request of LATCH on the delay ports (R135): T_LATCH_NS in microseconds, rounded up. -/
def latchMicros (p : Config.Params) : Nat := (p.tLatchNs + 999) / 1000

/-- SENDBIT b (R132). -/
def execSendbit (b : BitVec 1) (s : State) : Result := .next (s.sendBit (b.getLsbD 0))

/-- SENDBYTE v (R133). -/
def execSendbyte (v : Byte) (s : State) : Result := .next (s.sendByte v)

/-- SENDCOLOR r, g, b (R134); the triplet is sent unchanged (41_color_model.md R156). -/
def execSendcolor (r g b : Byte) (s : State) : Result := .next (s.sendColor (mkRgb r g b))

/-- LATCH (R135): refused in the critical section; else the gap, timed by the delay primitive. -/
def execLatch (s : State) : Result := unlessCritical s (s.waitDelay .us (latchMicros s.par) State.latchGap)

/-- SHOW (R136). -/
def execShow (s : State) : Result := s.showStrip

end Sys2Proof.Machine
end

