-- ==== Sys2Proof/Machine/Animation.lean ====
section
/-! DEFINITION. The AnimationEngine (43_animation.md): FX0 to FX7, ANEXT, ATICK. -/

namespace Sys2Proof.Machine

/-- A comet one hue step and one index step on (R187). -/
def stepComet (n : Nat) (c : BitVec 16) : BitVec 16 :=
  mkComet (BitVec.ofNat 8 (((cometHue c).toNat + 1) % 192)) (BitVec.ofNat 8 (((cometIdx c).toNat + 1) % n))

/-- A comet's pixel at full brightness (R187). -/
def State.drawComet (c : BitVec 16) (s : State) : Result :=
  s.storePixel (cometIdx c).toNat (cometHue c) fullLevel

/-- Both comets one step on (R187). -/
def State.stepComets (s : State) : State :=
  { s with ca := stepComet s.par.n s.ca, cb := stepComet s.par.n s.cb }

/-- The scatter of state 2 (R188): `k` times an index, then a hue, then the pixel. -/
def scatter : Nat → State → Result
  | 0, s => .next s
  | k + 1, s =>
    andThen (prngNext s.par.n s) fun s1 =>
      andThen (prngNext 192 s1) fun s2 =>
        andThen (s2.storePixel s1.rv.toNat (s2.rv.setWidth 8) fullLevel) (scatter k)

/-- One pixel of state 3 (R189): a random hue at full brightness. -/
def randomPixel (p : Nat) (s : State) : Result :=
  andThen (prngNext 192 s) fun s1 => s1.storePixel p (s1.rv.setWidth 8) fullLevel

/-- The drift of a hue by `d` (R190). -/
def driftHue (d : Nat) (e : Entry) : Entry :=
  withHue (BitVec.ofNat 8 (((entryHue e).toNat + d) % 192)) e

/-- One pixel of state 4 (R190): the level is kept. -/
def driftPixel (p : Nat) (s : State) : Result :=
  andThen (prngNext s.par.driftMax s) fun s1 =>
    .next (s1.putEntry p (driftHue s1.rv.toNat (s1.strip.read p)))

/-- One pixel of state 5 (R191). -/
def rainbowPixel (p : Nat) (s : State) : Result :=
  s.storePixel p (BitVec.ofNat 8 (p * 192 / s.par.n)) fullLevel

/-- The body of ANEXT (R194). -/
def State.advanceAst (s : State) : State := { s with ast := s.ast + 1, tcnt := 0 }

/-- FX0, comet-init (R186): no frame, the strip is not touched. -/
def execFx0 (s : State) : Result :=
  .next { s with ca := mkComet 0 0, cb := mkComet 96 (BitVec.ofNat 8 (s.par.n / 2)), ast := 1 }

/-- FX1, comet (R187). -/
def execFx1 (s : State) : Result :=
  let s1 := s.fadeStrip.stepComets
  andThen (s1.drawComet s1.ca) fun s2 =>
    andThen (s2.drawComet s2.cb) State.showStrip

/-- FX2, sparkle (R188). -/
def execFx2 (s : State) : Result :=
  andThen (prngNext 4 s.fadeStrip) fun s1 =>
    andThen (scatter s1.rv.toNat s1) State.showStrip

/-- FX3, random-init (R189). -/
def execFx3 (s : State) : Result :=
  andThen (forEach randomPixel (List.range s.par.n) s) fun s1 =>
    andThen s1.showStrip fun s2 => .next { s2 with ast := 4 }

/-- FX4, drift (R190). -/
def execFx4 (s : State) : Result :=
  andThen (forEach driftPixel (List.range s.par.n) s) State.showStrip

/-- FX5, rainbow-init (R191). -/
def execFx5 (s : State) : Result :=
  andThen (forEach rainbowPixel (List.range s.par.n) s) fun s1 =>
    andThen s1.showStrip fun s2 => .next { s2 with ast := 6 }

/-- FX6, rainbow-rotate (R192). -/
def execFx6 (s : State) : Result := s.rotateStrip.showStrip

/-- FX7, breathe (R193). -/
def execFx7 (s : State) : Result :=
  let s1 : State := { s with ghue := BitVec.ofNat 8 ((s.ghue.toNat + 1) % 192) }
  andThen (s1.fillStrip s1.ghue fullLevel) State.showStrip

/-- ANEXT (R194). -/
def execAnext (s : State) : Result := .next s.advanceAst

/-- ATICK (R195): the register keeps the low 8 bits of the count (log 13). -/
def execAtick (s : State) : Result :=
  if s.tcnt.toNat + 1 = s.par.autoTicks then .next s.advanceAst
  else .next { s with tcnt := s.tcnt + 1 }

end Sys2Proof.Machine
end

