-- ==== Sys2Proof/Machine/Environment.lean ====
section
/-! DEFINITION. The environment (46_system.md R276, R279) and reset (70_reset_and_hazards.md R320, R321). -/

namespace Sys2Proof.Machine

/-- The wait for a delay is open: the port `dly_req` is 1. -/
def Hold.isDelay : Hold → Bool
  | .delay _ _ => true
  | .running => false
  | .event => false
  | .release => false

/-- EnvTime(k) (R276). -/
def State.envTime (k : Nat) (s : State) : State :=
  { s with env := { s.env with cnt := s.env.cnt + BitVec.ofNat 32 k } }

/-- EnvBtn(v) (R276): a change from released to pressed is a press edge, and wakes when STAT.BARM = 1. -/
def State.envBtn (v : Bool) (s : State) : State :=
  let edge := s.env.btnN && !v && s.barm
  { s with stat := if edge then s.takeWake.stat else s.stat, env := { s.env with btnN := v } }

/-- EnvTick (R276): wakes when STAT.TARM = 1. -/
def State.envTick (s : State) : State := { s with stat := if s.tarm then s.takeWake.stat else s.stat }

/-- EnvDelayDone (R276): lets the open wait complete. -/
def State.envDelayDone (s : State) : State :=
  { s with env := { s.env with dlyDone := s.env.dlyDone || s.hold.isDelay } }

/-- One of the environment's moves, other than reset and the end of a turn, which change nothing here. -/
def State.envMove (e : EnvEvent) (s : State) : State :=
  match e with
  | .time k => s.envTime k
  | .btn v => s.envBtn v
  | .tick => s.envTick
  | .delayDone => s.envDelayDone
  | .reset => s
  | .turnEnd => s

/-- The environment's moves still to come. -/
def State.setScript (es : List EnvEvent) (s : State) : State := { s with env := { s.env with script := es } }

/-- The moves of `es` up to the end of the environment's turn, or up to a reset, which is left for the end of the step. -/
def envRun : List EnvEvent → State → State
  | [], s => s.setScript []
  | .turnEnd :: es, s => s.setScript es
  | .reset :: es, s => s.setScript (.reset :: es)
  | .time k :: es, s => envRun es (s.envTime k)
  | .btn v :: es, s => envRun es (s.envBtn v)
  | .tick :: es, s => envRun es s.envTick
  | .delayDone :: es, s => envRun es s.envDelayDone

/-- A turn of the environment inside an operation that takes time before a sample (R276, R331). -/
def State.envInside (s : State) : State := envRun s.env.script s

/-- Reset (70_reset_and_hazards.md R320, R321): every register and every entry as R58 says, W and WS empty; the parameters
and the environment are outside CORE. What a client had issued is dropped; later durations are drawn afresh (log 20). -/
def State.powerOn (s : State) : State :=
  { State.resetOf s.par with env := s.env, line := ⟨[], [], s.line.draws⟩ }

/-- When the timer ticks once the script is used up: while WFE waits, and at every 64th value of the counter. -/
def State.tickDue (s : State) : Bool := s.hold = .event || s.env.cnt.toNat % 64 = 0

/-- What the environment does once its script is used up (R279): the counter moves by 1, a requested delay ends, and the
timer ticks again and again, which wakes when it is armed. DESIGN CHOICE (log 2): one fair continuation among all. -/
def State.envFair (s : State) : State :=
  let timed := (s.envTime 1).envDelayDone
  { timed with stat := if timed.tickDue then timed.envTick.stat else timed.stat }

/-- The reset that a turn may have ended at. -/
def State.takeReset (s : State) : State :=
  match s.env.script with
  | .reset :: es => (s.setScript es).powerOn
  | _ => s

/-- The environment's turn after a move of CORE. -/
def State.envTurn (s : State) : State :=
  match s.env.script with
  | [] => s.envFair
  | _ :: _ => s.envInside.takeReset

end Sys2Proof.Machine
end

