-- ==== Sys2Proof/Machine/Game.lean ====
section
/-! DEFINITION. The GameEngine (44_game.md): GRENDER, GRESET, GINIT, GSTEP, GCATCH, GPOLL. -/

namespace Sys2Proof.Machine

/-- The deadline test (R216): the difference, read as a signed number, is not negative. -/
def reached (t d : Word) : Bool := (t - d).toNat < 2 ^ 31

/-- The hue of the hunter's green (R221). -/
def greenHue : Byte := 64

/-- The hue of the deer's red (R221). -/
def redHue : Byte := 0

/-- The body of GRENDER (R221): the deer is written last. -/
def State.renderGame (s : State) : Result :=
  andThen (s.clearStrip.storePixel s.hunter.toNat greenHue fullLevel) fun s1 =>
    andThen (s1.storePixel s1.deer.toNat redHue fullLevel) State.showStrip

/-- The deer placed at HUNTER + 4 + r (mod N) and the direction flipped (R217, R220). -/
def State.relocateDeer (r : Nat) (s : State) : State :=
  { s with deer := BitVec.ofNat 8 (s.wrap (s.hunter.toNat + 4 + r)), dir := 1 - s.dir }

/-- The body of GRESET (R217): HUNTER and DEADLINE are not written. -/
def State.gameReset (s : State) : Result :=
  andThen (prngNext 8 s) fun s1 =>
    ({ s1.relocateDeer s1.rv.toNat with speed := s1.par.s0 } : State).renderGame

/-- The hunter one step on in its direction (R219): DIR = 1 adds N - 1. -/
def stepHunter (n : Nat) (dir : BitVec 1) (h : Byte) : Byte :=
  BitVec.ofNat 8 ((h.toNat + if dir = 0 then 1 else n - 1) % n)

/-- The body of GSTEP (R219): "now" is the sample in TNOW. -/
def State.gameStep (s : State) : Result :=
  ({ s with hunter := stepHunter s.par.n s.dir s.hunter, deadline := s.tnow + s.speed } : State).renderGame

/-- The speed after a catch (R220, R224): the decrement, and below 0 the instance of `speed_after_underflow` that the
implementation has (93_implementation_defined.md U1, log 6). -/
def speedAfterCatch (p : Config.Params) (v : Word) : Word :=
  if p.speedDec.toNat ≤ v.toNat then v - p.speedDec
  else
    match p.underflow with
    | .wraps => v - p.speedDec
    | .unknown => Config.speedAfterUnderflow v

/-- The body of GCATCH (R220): DEADLINE is not written. -/
def State.gameCatch (s : State) : Result :=
  andThen (prngNext 8 s) fun s1 =>
    ({ s1.relocateDeer s1.rv.toNat with speed := speedAfterCatch s1.par s1.speed } : State).renderGame

/-- The time test of a poll (R222): a miss resets, else a deadline that is reached steps the hunter. -/
def State.pollTime (s : State) : Result :=
  if reached s.tnow s.deadline then (if s.hunter = s.deer then s.gameReset else s.gameStep) else .next s

/-- The button test of a poll (R222): a catch, or a false start. -/
def State.pollButton (s : State) : Result :=
  if s.bs then (if s.hunter = s.deer then s.gameCatch else s.gameReset) else .next s

/-- GRENDER (R221). -/
def execGrender (s : State) : Result := s.renderGame

/-- GRESET (R217). -/
def execGreset (s : State) : Result := s.gameReset

/-- GINIT (R218). -/
def execGinit (s : State) : Result :=
  let s1 := s.sampleCounter
  ({ s1 with deadline := s1.tnow + s1.par.s0 } : State).gameReset

/-- GSTEP (R219). -/
def execGstep (s : State) : Result := s.gameStep

/-- GCATCH (R220). -/
def execGcatch (s : State) : Result := s.gameCatch

/-- GPOLL (R222): the counter, the time test, then the button, whose sample is a draw of its own (00_scope.md R22), so
the environment may move before it (log 1). -/
def execGpoll (s : State) : Result :=
  andThen s.sampleCounter.pollTime fun s1 => s1.envInside.sampleButton.pollButton

end Sys2Proof.Machine
end

