-- ==== Sys2Proof/Machine/System.lean ====
section
/-! DEFINITION. The system operations (46_system.md R256 to R265). -/

namespace Sys2Proof.Machine

/-- PINCFG (R256): the data line is driven, low, from now on. -/
def execPincfg (s : State) : Result := .next ((s.setDout false).setOe true)

/-- RDBTN (R257). -/
def execRdbtn (s : State) : Result := .next s.sampleButton

/-- RDCNT (R258). -/
def execRdcnt (s : State) : Result := .next s.sampleCounter

/-- DELAYUS n (R259). -/
def execDelayus (n : BitVec 24) (s : State) : Result :=
  unlessCritical s (s.waitDelay .us n.toNat (State.elapse (1000 * n.toNat)))

/-- DELAYMS n (R260). -/
def execDelayms (n : BitVec 24) (s : State) : Result :=
  unlessCritical s (s.waitDelay .ms n.toNat (State.elapse (1000000 * n.toNat)))

/-- WFE (R261): holds while STAT.WAKE = 0; test and clear are one step. -/
def execWfe (s : State) : Result :=
  unlessCritical s
    (if s.wake then .next (((s.setWake false).setHold .running).elapse 0) else .next (s.setHold .event))

/-- ARMWAKE n (R262): the request on the arm ports, and STAT.TARM <- 1. -/
def execArmwake (n : BitVec 24) (s : State) : Result :=
  if n = 0 then .refused .zeroPeriod else .next (({ s with armMs := some n } : State).setTarm true)

/-- IRQOFF (R263). -/
def execIrqoff (s : State) : Result := .next (s.setIm true)

/-- IRQON (R264). -/
def execIrqon (s : State) : Result := if s.im then .next ((s.setIm false).elapse 0) else .next s

/-- WAITREL (R265): each step is one sample; it holds while the sample reads pressed. -/
def execWaitrel (s : State) : Result :=
  unlessCritical s
    (let t := s.sampleButton
     if t.bs then .next (t.setHold .release) else .next ((t.setHold .running).elapse 0))

end Sys2Proof.Machine
end

