-- ==== Sys2Proof/Machine/Dispatch.lean ====
section
/-! DEFINITION. What each operation does: one arm per constructor of Instr, one meaning per arm. -/

namespace Sys2Proof.Machine

/-- One operation of OPS-1 on a state (00_scope.md R8, R21). -/
def exec (i : Instr) (s : State) : Host.Outcome State Fault Refusal :=
  match i with
  | .sendbit b => Sys2Proof.Machine.execSendbit b s
  | .sendbyte v => Sys2Proof.Machine.execSendbyte v s
  | .sendcolor r g b => Sys2Proof.Machine.execSendcolor r g b s
  | .latch => Sys2Proof.Machine.execLatch s
  | .showFrame => Sys2Proof.Machine.execShow s
  | .hue2rgb h l => Sys2Proof.Machine.execHue2rgb h l s
  | .hue2rgbl h => Sys2Proof.Machine.execHue2rgbl h s
  | .pxset p h l => Sys2Proof.Machine.execPxset p h l s
  | .pxget p => Sys2Proof.Machine.execPxget p s
  | .fade => Sys2Proof.Machine.execFade s
  | .clear => Sys2Proof.Machine.execClear s
  | .fill h l => Sys2Proof.Machine.execFill h l s
  | .rotate => Sys2Proof.Machine.execRotate s
  | .rnext m => Sys2Proof.Machine.execRnext m s
  | .fx0 => Sys2Proof.Machine.execFx0 s
  | .fx1 => Sys2Proof.Machine.execFx1 s
  | .fx2 => Sys2Proof.Machine.execFx2 s
  | .fx3 => Sys2Proof.Machine.execFx3 s
  | .fx4 => Sys2Proof.Machine.execFx4 s
  | .fx5 => Sys2Proof.Machine.execFx5 s
  | .fx6 => Sys2Proof.Machine.execFx6 s
  | .fx7 => Sys2Proof.Machine.execFx7 s
  | .anext => Sys2Proof.Machine.execAnext s
  | .atick => Sys2Proof.Machine.execAtick s
  | .greset => Sys2Proof.Machine.execGreset s
  | .gstep => Sys2Proof.Machine.execGstep s
  | .gcatch => Sys2Proof.Machine.execGcatch s
  | .grender => Sys2Proof.Machine.execGrender s
  | .gpoll => Sys2Proof.Machine.execGpoll s
  | .ginit => Sys2Proof.Machine.execGinit s
  | .wfe => Sys2Proof.Machine.execWfe s
  | .armwake n => Sys2Proof.Machine.execArmwake n s
  | .delayus n => Sys2Proof.Machine.execDelayus n s
  | .delayms n => Sys2Proof.Machine.execDelayms n s
  | .rdcnt => Sys2Proof.Machine.execRdcnt s
  | .rdbtn => Sys2Proof.Machine.execRdbtn s
  | .irqoff => Sys2Proof.Machine.execIrqoff s
  | .irqon => Sys2Proof.Machine.execIrqon s
  | .waitrel => Sys2Proof.Machine.execWaitrel s
  | .pincfg => Sys2Proof.Machine.execPincfg s

end Sys2Proof.Machine
end

