-- ==== Sys2Proof/Machine/Pseudo.lean ====
section
/-! DEFINITION. The pseudo-operations (30_encoding.md R120): names with no operation code, and what each stands for. -/

namespace Sys2Proof.Machine

/-- The pseudo-operations of R120. -/
inductive Pseudo where
  /-- FX s, the animation state s (R113). -/
  | fx (s : BitVec 3)
  /-- FRAME. -/
  | frame
  /-- GMISS: the player missed the catch window. -/
  | gmiss
  /-- GFALSE: a false start. -/
  | gfalse
  /-- ARM: the boot arming. -/
  | arm
  /-- SETTLE: the settle delay. -/
  | settle
  /-- PXOFFALL: all pixels off. -/
  | pxoffall
deriving DecidableEq, Repr

/-- The operation that runs animation state `s` (R113). -/
def fxOf (s : BitVec 3) : Instr :=
  match s.toNat with
  | 0 => .fx0
  | 1 => .fx1
  | 2 => .fx2
  | 3 => .fx3
  | 4 => .fx4
  | 5 => .fx5
  | 6 => .fx6
  | _ => .fx7

/-- The expansion of a pseudo-operation (R120). -/
def expand (p : Config.Params) : Pseudo → Instr
  | .fx s => fxOf s
  | .frame => .showFrame
  | .gmiss => .greset
  | .gfalse => .greset
  | .arm => .armwake p.refreshMs
  | .settle => .delayms p.settleMs
  | .pxoffall => .clear

end Sys2Proof.Machine
end

