-- ==== Sys2Proof/Machine/Sequencer.lean ====
section
/-! DEFINITION. The sequencer, CORE's main loop (46_system.md R266 to R275), and the issue of a client's descriptors
(30_encoding.md R119, R121). -/

namespace Sys2Proof.Machine

/-- The code of a label (R266). -/
def labelCode : Label → BitVec 4
  | .boot => 0
  | .aExec => 1
  | .aTick => 2
  | .aSleep => 3
  | .aBtn => 4
  | .aHold => 5
  | .aSettle => 6
  | .gInit => 7
  | .gPoll => 8
  | .gHold => 9
  | .gSettle => 10

/-- The label with a code (R266); 11 to 15 are no labels (10_state.md R34). -/
def labelOf (c : BitVec 4) : Option Label :=
  match c.toNat with
  | 0 => some .boot
  | 1 => some .aExec
  | 2 => some .aTick
  | 3 => some .aSleep
  | 4 => some .aBtn
  | 5 => some .aHold
  | 6 => some .aSettle
  | 7 => some .gInit
  | 8 => some .gPoll
  | 9 => some .gHold
  | 10 => some .gSettle
  | _ => none

/-- SEQ <- l, once the label's operation has completed: while it holds, SEQ keeps its label (R266). -/
def State.goto (l : Label) (s : State) : State :=
  if s.hold = .running then { s with seq := labelCode l, part := .first } else s

/-- The label goes on with another of its operations in the next step (R266, 00_scope.md R8). -/
def State.goPart (k : LabelPart) (s : State) : State := { s with part := k }

/-- STAT.MAN <- STAT.BS, STAT.BARM <- STAT.BS (R267). -/
def State.takeMode (s : State) : State := (s.setMan s.bs).setBarm s.bs

/-- Issue `i`, then `SEQ <- l` when it has completed (R266). -/
def issueThen (i : Instr) (l : Label) (s : State) : Result :=
  andThen (exec i s) fun t => .next (t.goto l)

/-- Label BOOT (R267), one operation a step: PINCFG; with the AnimationEngine RDBTN, which decides the mode; ARMWAKE. -/
def seqBoot (s : State) : Result :=
  match s.part with
  | .first => andThen (exec .pincfg s) fun t => .next (if t.engine then t.goto .gInit else t.goPart .second)
  | .second => andThen (exec .rdbtn s) fun t => .next (t.takeMode.goPart .third)
  | .third => issueThen (expand s.par .arm) (if s.bs then .aHold else .aExec) s

/-- Label A_EXEC (R268): AST is read once, before the operation. -/
def seqExec (s : State) : Result := issueThen (expand s.par (.fx s.ast)) .aTick s

/-- Label A_TICK (R269). -/
def seqTick (s : State) : Result :=
  if s.man then .next (s.goto .aSleep) else issueThen .atick .aSleep s

/-- Label A_SLEEP (R270). -/
def seqSleep (s : State) : Result := issueThen .wfe .aBtn s

/-- Label A_BTN (R271), one operation a step: RDBTN, in manual mode; ANEXT, when the sample is pressed. -/
def seqBtn (s : State) : Result :=
  match s.part with
  | .first =>
    if s.man then andThen (exec .rdbtn s) fun t => .next (if t.bs then t.goPart .second else t.goto .aExec)
    else .next (s.goto .aExec)
  | .second => issueThen .anext .aHold s
  | .third => issueThen .anext .aHold s

/-- Label A_HOLD (R272). -/
def seqHold (s : State) : Result := issueThen .waitrel .aSettle s

/-- Label A_SETTLE (R273). -/
def seqSettle (s : State) : Result := issueThen (expand s.par .settle) .aExec s

/-- Label G_INIT (R274). -/
def seqGInit (s : State) : Result := issueThen .ginit .gPoll s

/-- Label G_POLL (R274). -/
def seqGPoll (s : State) : Result :=
  andThen (exec .gpoll s) fun t => .next (t.goto (if t.bs then .gHold else .gPoll))

/-- Label G_HOLD (R275). -/
def seqGHold (s : State) : Result := issueThen .waitrel .gSettle s

/-- Label G_SETTLE (R275). -/
def seqGSettle (s : State) : Result := issueThen (expand s.par .settle) .gPoll s

/-- What a label issues (R266). -/
def seqLabel (l : Label) (s : State) : Result :=
  match l with
  | .boot => seqBoot s
  | .aExec => seqExec s
  | .aTick => seqTick s
  | .aSleep => seqSleep s
  | .aBtn => seqBtn s
  | .aHold => seqHold s
  | .aSettle => seqSettle s
  | .gInit => seqGInit s
  | .gPoll => seqGPoll s
  | .gHold => seqGHold s
  | .gSettle => seqGSettle s

/-- The next operation of the label SEQ. -/
def seqStep (s : State) : Result :=
  match labelOf s.seq with
  | some l => seqLabel l s
  | none => .refused .noSuchLabel

/-- A client's descriptor is finished with once its operation has completed. -/
def State.retire (s : State) : State :=
  if s.hold = .running then { s with pending := s.pending.tail } else s

/-- Decode a descriptor and hand its operands to the operation's rule (30_encoding.md R121). -/
def issueWord (w : Word) (s : State) : Result :=
  match decode w with
  | .error _ => .refused .reservedDescriptor
  | .ok i => andThen (exec i s) fun t => .next t.retire

/-- CORE's own move: the client's next descriptor, else the sequencer's label. -/
def coreStep (s : State) : Result :=
  match s.pending with
  | w :: _ => issueWord w s
  | [] => seqStep s

/-- A client issues `w` next, and CORE is free to take it. -/
def State.issueNext (w : Word) (s : State) : State := { s with pending := w :: s.pending, hold := .running }

end Sys2Proof.Machine
end

