-- ==== Sys2Proof/Machine/Step.lean ====
section
/-! DEFINITION. One step: CORE's move, then the environment's turn (46_system.md R276, log 1); and the placing of a
descriptor where the next step takes it. -/

namespace Sys2Proof.Machine

/-- One step of CORE and its environment. -/
def step (s : State) : Host.Outcome State Fault Refusal :=
  andThen (coreStep s) fun t => .next t.envTurn

/-- The state with the descriptor of those bits issued next by a client (log 3). -/
def State.withFetchWord (s : State) (nbits w : Nat) : State := s.issueNext (BitVec.ofNat 32 (w % 2 ^ nbits))

end Sys2Proof.Machine
end

