-- ==== Sys2Proof/Machine/Observer.lean ====
section
/-! DEFINITION. What the LED chain makes of the wire history (40_transmitter.md R138): a function of W, for claims about
the colours displayed. It is no state of CORE (10_state.md R54). -/

namespace Sys2Proof.Machine

/-- The bits of a byte in wire order, the most significant first (20_memory.md R75, 30_encoding.md R117). -/
def byteBits (v : Byte) : List Bool := ([7, 6, 5, 4, 3, 2, 1, 0] : List Nat).map fun k => v.getLsbD k

/-- The 24 bits of a triplet in wire order (30_encoding.md R117). -/
def colourBits (order : Bool) (c : Rgb) : List Bool := (wireBytes order c).flatMap byteBits

/-- The bits of a frame: every pixel's triplet, pixel 0 first (30_encoding.md R117). -/
def frameBits (order : Bool) (cs : List Rgb) : List Bool := cs.flatMap (colourBits order)

/-- SHOWN (10_state.md R54): a triplet for each pixel, or unspecified (93_implementation_defined.md U8 to U11). -/
inductive Shown where
  /-- Any value: nothing may be concluded. -/
  | unspecified
  /-- The triplets displayed, pixel 0 first. -/
  | colours (px : List Rgb)
deriving DecidableEq, Repr

/-- What the chain has received: the bits since the last latch, newest first, whether something bad occurred among them,
and what it displays. -/
structure Chain where
  /-- B of R138, newest bit first. -/
  bits : List Bool
  /-- A bad segment occurred since the last latch. -/
  bad : Bool
  /-- SHOWN. -/
  shown : Shown
deriving DecidableEq, Repr

/-- The value of eight bits, the most significant first (20_memory.md R75). -/
def byteOfBits (bs : List Bool) : Byte := BitVec.ofNat 8 (bs.foldl (fun acc b => 2 * acc + b.toNat) 0)

/-- The triplet of 24 bits, the channel bytes in wire order (20_memory.md R76). -/
def rgbOfBits (order : Bool) (bs : List Bool) : Rgb :=
  let c0 := byteOfBits (bs.take 8)
  let c1 := byteOfBits ((bs.drop 8).take 8)
  let c2 := byteOfBits ((bs.drop 16).take 8)
  if order then mkRgb c0 c1 c2 else mkRgb c1 c0 c2

/-- The triplets of `n` pixels from 24 n bits, pixel 0 first (20_memory.md R77). -/
def rgbsOfBits (order : Bool) : Nat → List Bool → List Rgb
  | 0, _ => []
  | n + 1, bs => rgbOfBits order (bs.take 24) :: rgbsOfBits order n (bs.drop 24)

/-- SHOWN after a latch (R138). -/
def latchShown (n : Nat) (order : Bool) (c : Chain) : Shown :=
  if c.bits = [] then c.shown
  else if c.bits.length = 24 * n ∧ c.bad = false then .colours (rgbsOfBits order n c.bits.reverse)
  else .unspecified

/-- One segment received (R138). A low segment before any pulse is neither "between or after pulses", and is bad for
no frame (log 14). -/
def chainStep (p : Config.Params) (order : Bool) (c : Chain) (g : Segment) : Chain :=
  match g with
  | .high d =>
    if d < Config.ns Config.t0hLimitNs then ⟨false :: c.bits, c.bad, c.shown⟩
    else if Config.ns Config.t1hMinNs ≤ d then ⟨true :: c.bits, c.bad, c.shown⟩
    else ⟨c.bits, true, c.shown⟩
  | .low d =>
    if Config.ns p.tLatchNs ≤ d then ⟨[], false, latchShown p.n order c⟩
    else if d < Config.ns p.tWindowNs then c
    else if c.bits = [] ∧ c.bad = false then c
    else ⟨c.bits, true, c.shown⟩

/-- The chain after a wire history, given newest segment first; at reset SHOWN is unspecified (R58, U11). -/
def chainOf (p : Config.Params) (order : Bool) : List Segment → Chain
  | [] => ⟨[], false, .unspecified⟩
  | g :: older => chainStep p order (chainOf p order older) g

/-- SHOWN as a function of W (R138). -/
def State.shown (s : State) : Shown := (chainOf s.par s.order s.line.segs).shown

end Sys2Proof.Machine
end

