-- ==== Sys2Proof/Machine/Ports.lean ====
section
/-! DEFINITION. The output ports of CORE as views of the state (10_state.md R55), and the game phase (R60). -/

namespace Sys2Proof.Machine

/-- `dout_oe` = STAT.OE (R55). -/
def State.portDoutOe (s : State) : Bool := s.oe

/-- `dout` (R55): the level STAT.DOUT, or `none` while the line is not driven, when its level is not CORE's
(40_transmitter.md R141, 93_implementation_defined.md U12). -/
def State.portDout (s : State) : Option Bool := if s.oe then some s.dout else none

/-- `irq_mask` = STAT.IM (R55). -/
def State.portIrqMask (s : State) : Bool := s.im

/-- `idle`: 1 while WFE holds (R55, 60_exceptions.md R305). -/
def State.portIdle (s : State) : Bool := s.hold = .event

/-- `dly_req`: 1 while a requested delay runs (R55). -/
def State.portDlyReq (s : State) : Bool := s.hold.isDelay

/-- `dly_unit` and `dly_n` of the delay that runs (R55); the port has the low 24 bits of the count (log 9). -/
def State.portDly (s : State) : Option (DelayUnit × BitVec 24) :=
  match s.hold with
  | .delay u n => some (u, BitVec.ofNat 24 n)
  | .running => none
  | .event => none
  | .release => none

/-- `arm_ms` of the last request on `arm_req` (R55, 46_system.md R262). -/
def State.portArm (s : State) : Option (BitVec 24) := s.armMs

/-- W in the order of emission (00_scope.md R23). -/
def State.wireHistory (s : State) : List Segment := s.line.segs.reverse

/-- WS in the order of emission (00_scope.md R23). -/
def State.symbolHistory (s : State) : List Symbol := s.line.syms.reverse

/-- The three named states of the game (44_game.md R223). -/
inductive GamePhase where
  /-- Until GINIT has run. -/
  | idle
  /-- While GPOLL repeats. -/
  | active
  /-- From an accepted press until the settle delay is over. -/
  | resolving
deriving DecidableEq, Repr

/-- `GPH`, a function of SEQ (R60); `none` at the labels of the animation, for which R60 gives no phase. -/
def gamePhase (l : Label) : Option GamePhase :=
  match l with
  | .boot => some .idle
  | .gInit => some .idle
  | .gPoll => some .active
  | .gHold => some .resolving
  | .gSettle => some .resolving
  | .aExec => none
  | .aTick => none
  | .aSleep => none
  | .aBtn => none
  | .aHold => none
  | .aSettle => none

end Sys2Proof.Machine
end

