-- ==== Sys2Proof/Safety.lean ====
section
/-! DEFINITION. The invariants that claims rest on: the ranges of 10_state.md R56 and the sequencer's conditions
(46_system.md R266, 43_animation.md R198, 44_game.md R225). -/

namespace Sys2Proof.Machine

/-- Every entry of the strip is in range (10_state.md R56): the level is at most 6 and the hue at most 191, and nothing
is listed above entry N - 1. -/
abbrev StripInRange (p : Config.Params) (m : Memory) : Prop :=
  ∀ c ∈ m, c.1 < p.n ∧ (entryHue c.2).toNat ≤ 191 ∧ (entryLevel c.2).toNat ≤ 6

/-- The range invariants of 10_state.md R56, with legal parameters, the canonical form of the strip, CFG equal to the
straps (R32), and a position within the label that the label has (46_system.md R267, R271). -/
abbrev State.InRange (s : State) : Prop :=
  s.par.Legal ∧ s.cfg = s.par.straps ∧ s.strip.wf ∧ StripInRange s.par s.strip ∧
    ((cometHue s.ca).toNat ≤ 191 ∧ (cometHue s.cb).toNat ≤ 191 ∧ s.ghue.toNat ≤ 191) ∧
    ((cometIdx s.ca).toNat < s.par.n ∧ (cometIdx s.cb).toNat < s.par.n) ∧
    (s.hunter.toNat < s.par.n ∧ s.deer.toNat < s.par.n) ∧
    s.tcnt.toNat < s.par.autoTicks ∧ s.seq.toNat ≤ 10 ∧ s.dout = false ∧
    (s.part = .first ∨ s.seq = 0 ∨ (s.seq = 4 ∧ s.part = .second))

/-- CORE runs its own programme, outside the critical section: no client has issued anything. -/
abbrev State.Autonomous (s : State) : Prop := s.pending = [] ∧ s.im = false

/-- A safe outcome of a step: no refusal (60_exceptions.md R291), the state in range. -/
def safeOutcome (r : Result) : Prop := ∃ t : State, r = .next t ∧ t.InRange

/-- The operations that wait on the environment (40_transmitter.md R137). -/
def waits : Instr → Bool
  | .latch | .wfe | .waitrel | .delayus _ | .delayms _ => true
  | .sendbit _ | .sendbyte _ | .sendcolor _ _ _ | .showFrame | .hue2rgb _ _ | .hue2rgbl _
  | .pxset _ _ _ | .pxget _ | .fade | .clear | .fill _ _ | .rotate | .rnext _
  | .fx0 | .fx1 | .fx2 | .fx3 | .fx4 | .fx5 | .fx6 | .fx7 | .anext | .atick
  | .greset | .gstep | .gcatch | .grender | .gpoll | .ginit
  | .armwake _ | .rdcnt | .rdbtn | .irqoff | .irqon | .pincfg => false

/-- STAT differs at most in the bits of `js`. -/
def statFrame (js : List Nat) (s t : State) : Prop := ∀ j, j ∉ js → t.stat.getLsbD j = s.stat.getLsbD j


/-- The strip of `t` is the game's picture (44_game.md R221, R225): the deer red, the hunter green unless it stands on the
deer, every other pixel off with the hue it had in `s`. -/
def GameDrawn (s t : State) : Prop :=
  ∀ p, p < s.par.n →
    t.strip.read p =
      if p = t.deer.toNat then mkEntry 0 6
      else if p = t.hunter.toNat then mkEntry 64 6
      else withLevel 0 (s.strip.read p)

/-- The chain has received nothing since the last latch, or since reset: no bit and nothing bad. -/
def ChainClean (s : State) : Prop :=
  (chainOf s.par s.order s.line.segs).bits = [] ∧ (chainOf s.par s.order s.line.segs).bad = false

/-- The high time of a bit is within the bounds of 40_transmitter.md R131. -/
def highLegal (b : Bool) (d : Nat) : Prop :=
  if b then Config.ns 625 ≤ d else 0 < d ∧ d < Config.ns 500

/-- The high and low times `ps` are those of pulses for the bits `bs` (40_transmitter.md R132, R133): each high time is
legal for its bit, each low time is positive and below the window of that many nanoseconds, the last one only if
`tightLast`. -/
def PulsesFor (window : Nat) (tightLast : Bool) : List Bool → List (Nat × Nat) → Prop
  | [], ps => ps = []
  | _ :: _, [] => False
  | b :: bs, (dh, dl) :: ps =>
    highLegal b dh ∧ 0 < dl ∧ ((bs ≠ [] ∨ tightLast = true) → dl < Config.ns window) ∧ PulsesFor window tightLast bs ps

/-- The segments of pulses with the high and low times `ps`, in the order of emission. -/
def pulseSegs (ps : List (Nat × Nat)) : List Segment := ps.flatMap fun q => [.high q.1, .low q.2]

/-- The high and low times `ps` are those of one complete good frame of the triplets `cs` (40_transmitter.md R136): 24 N
pulses, entry 0 first, every gap between them tight, and a low time of at least T_LATCH_NS after the last. -/
def GoodFrame (s : State) (cs : List Rgb) (ps : List (Nat × Nat)) : Prop :=
  cs.length = s.par.n ∧ PulsesFor s.par.tWindowNs false (frameBits s.order cs) ps ∧
    ∃ q, ps.getLast? = some q ∧ Config.ns s.par.tLatchNs ≤ q.2

/-- What W gains of the segments `w`: all of them while the line is driven, none while STAT.OE = 0 (00_scope.md R23,
93_implementation_defined.md U12, log 12). -/
def State.driven (s : State) (w : List Segment) : List Segment := if s.oe then w else []

/-- W, newest segment first, after `d` picoseconds with the line low (40_transmitter.md R130): `extend(d)` while the line
is driven, as it was while STAT.OE = 0 (log 12). -/
def State.lowFor (d : Nat) (s : State) : List Segment := if s.oe then extendSegs d s.line.segs else s.line.segs

/-- The sequencer issues PINCFG first (46_system.md R256, R267): but before that operation, the line is driven. -/
def State.PinsConfigured (s : State) : Prop := s.oe = true ∨ (s.seq = 0 ∧ s.part = .first)

/-- Between `s` and `t` exactly one frame of the strip of `t` was sent (40_transmitter.md R136): if the line is
driven, W has gained the pulses of one good frame; WS has gained its symbols, RGB holds the triplet of the last pixel,
STAT.IM and STAT.DOUT are 0 and the rest of STAT is as before. -/
def FrameSent (s t : State) : Prop :=
  ∃ (cs : List Rgb) (ps : List (Nat × Nat)), GoodFrame s cs ps ∧
    (∀ p, p < s.par.n → convert s.cvar s.par.gamma (t.strip.read p) = .ok (cs.getD p 0)) ∧
    t.wireHistory = s.wireHistory ++ s.driven (pulseSegs ps) ∧
    t.symbolHistory = s.symbolHistory ++ (frameBits s.order cs).map bitSymbol ++ [.latch] ∧
    t.rgb = cs.getD (s.par.n - 1) 0 ∧ t.im = false ∧ t.dout = false ∧ statFrame [1, 6] s t

/-- Every high segment of a wire history is a 0 bit or a 1 bit, none is bad (40_transmitter.md R138). -/
def highsLegal (w : List Segment) : Prop := ∀ d, Segment.high d ∈ w → (0 < d ∧ d < Config.ns 500) ∨ Config.ns 625 ≤ d

/-- Two low segments are never adjacent in W (40_transmitter.md R130). -/
def lowsApart : List Segment → Bool
  | [] => true
  | .high _ :: r => lowsApart r
  | .low _ :: [] => true
  | .low _ :: .low _ :: _ => false
  | .low _ :: .high d :: r => lowsApart (.high d :: r)

end Sys2Proof.Machine
end

