-- ==== Sys2Proof/WellFormed.lean ====
section
/-! DEFINITION. The operand domains of the operations (60_exceptions.md R291). The widths of the operands are in the
types of `Instr`; what is left to check is that a hue is at most 191, a level at most 6, a bound and a period not 0. -/

namespace Sys2Proof

/-- A hue in 0 .. 191 (30_encoding.md R118). -/
def hueOk (h : Byte) : Bool := h.toNat ≤ 191

/-- A level in 0 .. 6 (30_encoding.md R118). -/
def levelOk (l : Level) : Bool := l.toNat ≤ 6

/-- The operands are in the domain for which the document gives a meaning (60_exceptions.md R291). Every operation
without a hue, level, bound or period is well formed whatever its operands. -/
def Instr.wellFormed : Instr → Bool
  | .hue2rgb h l => hueOk h && levelOk l
  | .hue2rgbl h => hueOk h
  | .pxset _ h l => hueOk h && levelOk l
  | .fill h l => hueOk h && levelOk l
  | .rnext m => m ≠ 0
  | .armwake n => n ≠ 0
  | .sendbit _ | .sendbyte _ | .sendcolor _ _ _ | .latch | .showFrame | .pxget _ | .fade | .clear | .rotate
  | .fx0 | .fx1 | .fx2 | .fx3 | .fx4 | .fx5 | .fx6 | .fx7 | .anext | .atick
  | .greset | .gstep | .gcatch | .grender | .gpoll | .ginit
  | .wfe | .delayus _ | .delayms _ | .rdcnt | .rdbtn | .irqoff | .irqon | .waitrel | .pincfg => true

end Sys2Proof
end

