-- ==== Sys2Proof/Certificates/Slice0/Obligations.lean ====
section
/-! DEFINITION. The statements about CORE that are to be proved, in the order of spec/: the descriptor, one step, the
transmitter, the colours, the strip, the generator, the animation, the game, the system operations, the environment, the
sequencer, and the whole machine. -/

open Sys2Proof Sys2Proof.Machine

/-! ### The descriptor -/

/-- 30_encoding.md R121: "decode(encode(x)) = x for every operation with operands in the field ranges". -/
def Obligations.DecodeEncodeAgree : Prop := ∀ i : Instr, decode (encode i) = .ok i

/-- 95_test_vectors.md: words written out from the encodings of 30_encoding.md decode to what they stand for. -/
def Obligations.SampleWordsDecode : Prop :=
  decode 0x02123456 = .ok (.sendcolor 0x12 0x34 0x56) ∧ decode 0x10000664 = .ok (.hue2rgb 100 6) ∧
    decode 0x20030640 = .ok (.pxset 3 64 6) ∧ decode 0x21130000 = .ok (.pxget 19) ∧
    decode 0x30FFFFFF = .ok (.rnext 0xFFFFFF) ∧ decode 0x45000000 = .ok .fx5 ∧ decode 0x55000000 = .ok .ginit ∧
    decode 0x6300000A = .ok (.delayms 10) ∧ decode 0x20030E40 = .error .reservedBits ∧
    decode 0x4A000000 = .error .reservedOp

/-- 30_encoding.md R114, R121, 60_exceptions.md R291: whatever decodes is the encoding of what it decodes to, so no
set must-be-zero bit and no unused operation code decodes; and a client's descriptor is refused as reserved exactly
when it is the encoding of no operation. -/
def Obligations.OnlyReservedDescriptorsRefused : Prop :=
  (∀ (w : Word) (i : Instr), decode w = .ok i → encode i = w) ∧
    ∀ (s : State) (w : Word) (r : List Word), s.pending = w :: r →
      (step s = .refused .reservedDescriptor ↔ ∀ i : Instr, encode i ≠ w)

/-! ### One step -/

/-- A STEP RUNS THE DECODED INSTRUCTION. When the client's next descriptor decodes to `i`, the step is `exec i` on
that same state (30_encoding.md R121), and then the environment has its turn (46_system.md R276). What the step adds
to that is the model's: that the environment moves once in a step (log 1), that a client's list stands for issue and
the descriptor leaves it unless the operation holds (log 3), and that a refusal of `exec` is the refusal of the step,
which ends the run (log 18). -/
def Obligations.StepRunsIssuedDescriptor : Prop :=
  ∀ (s : State) (w : Word) (r : List Word) (i : Instr), s.pending = w :: r → decode w = .ok i →
    (∀ t, exec i s = .next t → t.hold = .running → step s = .next ({ t with pending := r } : State).envTurn) ∧
      (∀ t, exec i s = .next t → t.hold ≠ .running → step s = .next t.envTurn) ∧
      (∀ q, exec i s = .refused q → step s = .refused q)

/-- 60_exceptions.md R291, R299: in a state in range every operation may be issued; it is refused exactly when an
operand is out of its domain, or when it would wait inside the critical section. -/
def Obligations.OperationsRunUnlessRefused : Prop :=
  ∀ (i : Instr) (s : State), s.InRange →
    ((∃ t, exec i s = .next t) ↔ i.wellFormed = true ∧ ¬ (waits i = true ∧ s.im = true))

/-- 60_exceptions.md R291, 40_transmitter.md R137: the reason of every refusal of an operand, the first in the
operation's pseudocode; and no operation that waits runs inside the critical section, whatever its operand. -/
def Obligations.RefusalReasons : Prop :=
  (∀ (s : State) (i h : Byte) (l : Level),
    (191 < h.toNat → exec (.hue2rgb h l) s = .refused .hueOutOfRange ∧ exec (.hue2rgbl h) s = .refused .hueOutOfRange ∧
      exec (.pxset i h l) s = .refused .hueOutOfRange ∧ exec (.fill h l) s = .refused .hueOutOfRange) ∧
    (h.toNat ≤ 191 → 6 < l.toNat → exec (.hue2rgb h l) s = .refused .levelOutOfRange ∧
      exec (.pxset i h l) s = .refused .levelOutOfRange ∧ exec (.fill h l) s = .refused .levelOutOfRange) ∧
    exec (.rnext 0) s = .refused .zeroModulus ∧ exec (.armwake 0) s = .refused .zeroPeriod) ∧
  ∀ (i : Instr) (s : State), waits i = true → s.im = true → exec i s = .refused .holdInCritical

/-! ### The transmitter -/

/-- 40_transmitter.md R132 to R134, 20_memory.md R75, R76: SENDBIT sends its bit, SENDBYTE its eight bits, the most
significant first, SENDCOLOR its three bytes in the order of CFG.ORDER: one pulse and one symbol for each bit, each
pulse within the bounds of R131, every gap between them tight and the last one when the caller holds the critical
section. STAT.IM is as before, STAT.DOUT is 0, nothing else changes. While STAT.OE = 0 the pulses are not driven, and W
gains none of them (00_scope.md R23, log 12). Durations are whole picoseconds (log 5). -/
def Obligations.SendsPutTheirBitsOnTheWire : Prop :=
  ∀ (x : BitVec 1) (v r g b : Byte) (s : State), 0 < s.par.tWindowNs →
    let byte := fun v : Byte => (List.range 8).map fun k => v.getLsbD (7 - k)
    ∀ q ∈ [(Instr.sendbit x, [x.getLsbD 0]), (.sendbyte v, byte v),
        (.sendcolor r g b, if s.order then byte r ++ byte g ++ byte b else byte g ++ byte r ++ byte b)],
      ∃ t ps, exec q.1 s = .next t ∧ PulsesFor s.par.tWindowNs s.im q.2 ps ∧
        t.wireHistory = s.wireHistory ++ s.driven (pulseSegs ps) ∧
        t.symbolHistory = s.symbolHistory ++ q.2.map bitSymbol ∧
        t.dout = false ∧ statFrame [6] s t ∧ t = { s with stat := t.stat, line := t.line }

/-- 40_transmitter.md R135: LATCH, outside the critical section, requests a delay of T_LATCH_NS in microseconds
rounded up, holds until it is over, and then the line has stayed low for at least T_LATCH_NS more and WS has gained
`latch` (one poll of `dly_done` a step is the model's, log 9; W records the time if the line is driven, log 12). -/
def Obligations.LatchWaitsForTheGap : Prop :=
  ∀ s : State, s.par.Legal → s.im = false →
    let n := (s.par.tLatchNs + 999) / 1000
    (s.hold ≠ .delay .us n →
      exec .latch s = .next { s with hold := .delay .us n, env := { s.env with dlyDone := false } }) ∧
    (s.hold = .delay .us n → s.env.dlyDone = false → exec .latch s = .next s) ∧
    (s.hold = .delay .us n → s.env.dlyDone = true →
      ∃ t d, exec .latch s = .next t ∧ Config.ns s.par.tLatchNs ≤ d ∧ t.line.segs = s.lowFor d ∧
        t.symbolHistory = s.symbolHistory ++ [.latch] ∧ t.hold = .running ∧
        t = { s with line := t.line, hold := .running, env := { s.env with dlyDone := false } })

/-- 40_transmitter.md R136: SHOW of a strip in range sends one frame of 24 N pulses, entry 0 first, all gaps between
them tight, the low time after the last at least T_LATCH_NS; it does not write the strip, and writes RGB, STAT.IM and
STAT.DOUT as `FrameSent` says (its latch gap is part of the one step, R277, log 9). -/
def Obligations.ShowSendsOneFrame : Prop :=
  ∀ s : State, s.par.Legal → StripInRange s.par s.strip →
    ∃ t cs ps q, exec .showFrame s = .next t ∧ FrameSent s t ∧
      cs.length = s.par.n ∧
      (∀ p, p < s.par.n → convert s.cvar s.par.gamma (s.strip.read p) = .ok (cs.getD p 0)) ∧
      PulsesFor s.par.tWindowNs false (frameBits s.order cs) ps ∧ ps.getLast? = some q ∧
      Config.ns s.par.tLatchNs ≤ q.2 ∧
      t.wireHistory = s.wireHistory ++ s.driven (pulseSegs ps) ∧
      t = { s with stat := t.stat, rgb := t.rgb, line := t.line }

/-- 40_transmitter.md R139: after a SHOW that starts with W empty or ending in a latch-length low segment, the chain
displays the conversion of every entry, as the strip was when SHOW started. The chain is the function of W of R138. W
holds what CORE drives (00_scope.md R23): a SHOW while STAT.OE = 0 completes and leaves W and what is displayed as they
were (93_implementation_defined.md U12, log 12). -/
def Obligations.ShowDisplaysTheStrip : Prop :=
  ∀ s : State, s.par.Legal → StripInRange s.par s.strip →
    (s.line.segs = [] ∨ ∃ e r, s.line.segs = .low e :: r ∧ Config.ns s.par.tLatchNs ≤ e) →
    (s.oe = true → ∃ t cs, exec .showFrame s = .next t ∧ t.shown = .colours cs ∧ cs.length = s.par.n ∧
      ∀ p, p < s.par.n → convert s.cvar s.par.gamma (s.strip.read p) = .ok (cs.getD p 0)) ∧
    (s.oe = false →
      ∃ t, exec .showFrame s = .next t ∧ t.wireHistory = s.wireHistory ∧ t.shown = s.shown)

/-- 40_transmitter.md R138: the observer, on pulses `gs` (high and low times, the earliest first) that follow a latch
or reset, no gap but the last being a latch. With B the bits of the highs that are good: an empty B leaves SHOWN as it
was; a B of exactly 24 N bits with nothing bad among them, no high of 500 to 624 ns and no gap from the window up to
the latch gap, shows the triplets that these bits are; any other B leaves SHOWN unspecified. -/
def Obligations.ObserverJudgesEveryFrame : Prop :=
  ∀ (p : Config.Params) (order : Bool) (old : List Segment) (gs : List (Nat × Nat)) (q : Nat × Nat), p.Legal →
    (chainOf p order old).bits = [] → (chainOf p order old).bad = false →
    (∀ g ∈ gs, g.2 < Config.ns p.tLatchNs) → Config.ns p.tLatchNs ≤ q.2 →
    let badHigh := fun d => Config.ns 500 ≤ d ∧ d < Config.ns 625
    let bits := (gs ++ [q]).filterMap fun g =>
      if g.1 < Config.ns 500 then some false else if Config.ns 625 ≤ g.1 then some true else none
    let bad := (∃ g ∈ gs ++ [q], badHigh g.1) ∨ ∃ g ∈ gs, Config.ns p.tWindowNs ≤ g.2
    let shown := (chainOf p order ((pulseSegs (gs ++ [q])).reverse ++ old)).shown
    (bits = [] → shown = (chainOf p order old).shown) ∧
      (bits ≠ [] → bad → shown = .unspecified) ∧
      (bits ≠ [] → bits.length ≠ 24 * p.n → shown = .unspecified) ∧
      (∀ cs : List Rgb, cs.length = p.n → bits = frameBits order cs → ¬ bad → shown = .colours cs) ∧
      ∀ d, (chainOf p order (extendSegs d old)).shown = (chainOf p order old).shown

/-- 40_transmitter.md R130 to R132, 00_scope.md R23: a step, whatever a client issues, keeps four properties of W: every
high segment is a 0 bit or a 1 bit; two low segments are never adjacent; while STAT.OE = 0 nothing has been driven and W
is empty (93_implementation_defined.md U12, log 12); and past the first operation of BOOT the line is driven. -/
def Obligations.StepKeepsTheWireLegal : Prop :=
  ∀ s t : State, step s = .next t →
    (highsLegal s.line.segs → highsLegal t.line.segs) ∧
      (lowsApart s.line.segs = true → lowsApart t.line.segs = true) ∧
      ((s.oe = false → s.line.segs = []) → t.oe = false → t.line.segs = []) ∧
      (s.PinsConfigured → t.PinsConfigured)

/-! ### The colour model -/

/-- 41_color_model.md R152: HUE2RGB writes RGB with the triplet of the phase, `col` and `ncol` from the gamma ROM at
`step >> (6 - l)` and `(63 - step) >> (6 - l)`. -/
def Obligations.Hue2rgbConvertsWithGamma : Prop :=
  ∀ (h : Byte) (l : Level) (s : State), h.toNat ≤ 191 → l.toNat ≤ 6 →
    let col := s.par.gamma.getD (h.toNat % 64 / 2 ^ (6 - l.toNat)) 0
    let ncol := s.par.gamma.getD ((63 - h.toNat % 64) / 2 ^ (6 - l.toNat)) 0
    ∃ t, exec (.hue2rgb h l) s = .next t ∧ t = { s with rgb := t.rgb } ∧
      (h.toNat < 64 → red t.rgb = ncol ∧ green t.rgb = col ∧ blue t.rgb = 0) ∧
      (64 ≤ h.toNat → h.toNat < 128 → red t.rgb = 0 ∧ green t.rgb = ncol ∧ blue t.rgb = col) ∧
      (128 ≤ h.toNat → red t.rgb = col ∧ green t.rgb = 0 ∧ blue t.rgb = ncol)

/-- 41_color_model.md R153: HUE2RGBL writes RGB with the triplet of the phase, 4 times the step and 252 less that. -/
def Obligations.Hue2rgblConvertsLinearly : Prop :=
  ∀ (h : Byte) (s : State), h.toNat ≤ 191 →
    ∃ t, exec (.hue2rgbl h) s = .next t ∧ t = { s with rgb := t.rgb } ∧
      (h.toNat < 64 → (red t.rgb).toNat = 252 - 4 * (h.toNat % 64) ∧ (green t.rgb).toNat = 4 * (h.toNat % 64) ∧
        blue t.rgb = 0) ∧
      (64 ≤ h.toNat → h.toNat < 128 → red t.rgb = 0 ∧ (green t.rgb).toNat = 252 - 4 * (h.toNat % 64) ∧
        (blue t.rgb).toNat = 4 * (h.toNat % 64)) ∧
      (128 ≤ h.toNat → (red t.rgb).toNat = 4 * (h.toNat % 64) ∧ green t.rgb = 0 ∧
        (blue t.rgb).toNat = 252 - 4 * (h.toNat % 64))

/-- 10_state.md R32, 41_color_model.md R154: bits 0, 1 and 2 of CFG are ENGINE, ORDER and CVAR; the conversion of SHOW
is that of HUE2RGB when bit 2 of CFG is 0; when it is 1, level 0 is off and every other level is the conversion of
HUE2RGBL. -/
def Obligations.ConvertFollowsTheStrap : Prop :=
  ∀ (s t : State) (e : Entry),
    (s.engine = s.cfg.getLsbD 0 ∧ s.order = s.cfg.getLsbD 1 ∧ s.cvar = s.cfg.getLsbD 2) ∧
      (s.cfg.getLsbD 2 = false → exec (.hue2rgb (entryHue e) (entryLevel e)) s = .next t →
        convert s.cvar s.par.gamma e = .ok t.rgb) ∧
      (s.cfg.getLsbD 2 = true → entryLevel e = 0 → convert s.cvar s.par.gamma e = .ok 0) ∧
      (s.cfg.getLsbD 2 = true → entryLevel e ≠ 0 → exec (.hue2rgbl (entryHue e)) s = .next t →
        convert s.cvar s.par.gamma e = .ok t.rgb)

/-- 41_color_model.md R155: the properties of `hue2rgb` for every legal gamma table: the channel the phase does not
use is 0; the other two are the table's values at two indices that sum to 63 before the shift; at level 0 the result
is (0,0,0), and at level 6 and step 0 or 63 exactly one channel is not 0; no channel is above GAMMA[63 >> (6 - l)],
and each is a value of the table. -/
def Obligations.Hue2rgbChannelProperties : Prop :=
  ∀ (g : List Byte) (h : Byte) (l : Level), Config.GammaLegal g → h.toNat ≤ 191 → l.toNat ≤ 6 →
    ∃ c a b, hue2rgb g h l = .ok c ∧ a + b = 63 ∧ a = h.toNat % 64 ∧
      (h.toNat / 64 = 0 → blue c = 0 ∧ green c = g.getD (a / 2 ^ (6 - l.toNat)) 0 ∧
        red c = g.getD (b / 2 ^ (6 - l.toNat)) 0) ∧
      (h.toNat / 64 = 1 → red c = 0 ∧ blue c = g.getD (a / 2 ^ (6 - l.toNat)) 0 ∧
        green c = g.getD (b / 2 ^ (6 - l.toNat)) 0) ∧
      (h.toNat / 64 = 2 → green c = 0 ∧ red c = g.getD (a / 2 ^ (6 - l.toNat)) 0 ∧
        blue c = g.getD (b / 2 ^ (6 - l.toNat)) 0) ∧
      (l = 0 → c = 0) ∧
      (l = 6 → a = 0 ∨ a = 63 → ([red c, green c, blue c].filter (· ≠ 0)).length = 1) ∧
      (∀ v ∈ [red c, green c, blue c], v ∈ g ∧ v ≤ g.getD (63 / 2 ^ (6 - l.toNat)) 0)

/-! ### The strip -/

/-- 42_pixel_strip.md R166: PXSET writes one entry, at the index modulo N, and no other. -/
def Obligations.PxsetStoresOneEntry : Prop :=
  ∀ (i h : Byte) (l : Level) (s : State), s.strip.wf → h.toNat ≤ 191 → l.toNat ≤ 6 →
    ∃ t, exec (.pxset i h l) s = .next t ∧ t = { s with strip := t.strip } ∧
      entryHue (t.strip.read (i.toNat % s.par.n)) = h ∧ entryLevel (t.strip.read (i.toNat % s.par.n)) = l ∧
      ∀ a, a ≠ i.toNat % s.par.n → t.strip.read a = s.strip.read a

/-- 42_pixel_strip.md R171: PXGET loads the entry at the index modulo N into PXR, level in bits 10:8 and hue in bits
7:0; operation code 0x21, format FI. -/
def Obligations.PxgetLoadsOneEntry : Prop :=
  ∀ (i : Byte) (s : State),
    encode (.pxget i) = (0x21 : Byte) ++ i ++ (0 : BitVec 16) ∧
      ∃ t, exec (.pxget i) s = .next t ∧ t = { s with pxr := t.pxr } ∧
        t.pxr = entryLevel (s.strip.read (i.toNat % s.par.n)) ++ entryHue (s.strip.read (i.toNat % s.par.n))

/-- 42_pixel_strip.md R167: FADE takes every level one step down, 0 stays 0, and keeps every hue. -/
def Obligations.FadeDimsEveryPixel : Prop :=
  ∀ s : State, s.strip.wf →
    ∃ t, exec .fade s = .next t ∧ t = { s with strip := t.strip } ∧
      (∀ p, p < s.par.n → (entryLevel (t.strip.read p)).toNat = (entryLevel (s.strip.read p)).toNat - 1) ∧
      (∀ p, entryHue (t.strip.read p) = entryHue (s.strip.read p)) ∧
      (∀ a, s.par.n ≤ a → t.strip.read a = s.strip.read a)

/-- 42_pixel_strip.md R168: CLEAR sets every level to 0, keeps every hue, and is idempotent. -/
def Obligations.ClearTurnsEveryPixelOff : Prop :=
  ∀ s : State, s.strip.wf →
    ∃ t, exec .clear s = .next t ∧ t = { s with strip := t.strip } ∧
      (∀ p, p < s.par.n → entryLevel (t.strip.read p) = 0) ∧
      (∀ p, entryHue (t.strip.read p) = entryHue (s.strip.read p)) ∧
      (∀ a, s.par.n ≤ a → t.strip.read a = s.strip.read a) ∧ exec .clear t = .next t

/-- 42_pixel_strip.md R169: FILL writes every entry with its operands. -/
def Obligations.FillSetsEveryPixel : Prop :=
  ∀ (h : Byte) (l : Level) (s : State), s.strip.wf → h.toNat ≤ 191 → l.toNat ≤ 6 →
    ∃ t, exec (.fill h l) s = .next t ∧ t = { s with strip := t.strip } ∧
      (∀ p, p < s.par.n → entryHue (t.strip.read p) = h ∧ entryLevel (t.strip.read p) = l) ∧
      (∀ a, s.par.n ≤ a → t.strip.read a = s.strip.read a)

/-- 42_pixel_strip.md R170: after ROTATE entry p is the old entry (p - 1) mod N; "N applications restore the strip";
operation code 0x25, format F0. -/
def Obligations.RotateMovesEveryPixel : Prop :=
  encode .rotate = 0x25000000 ∧
  ∀ s : State, s.strip.wf → 1 ≤ s.par.n →
    (∃ t, exec .rotate s = .next t ∧ t = { s with strip := t.strip } ∧
      (∀ p, p < s.par.n → t.strip.read p = s.strip.read ((p + s.par.n - 1) % s.par.n)) ∧
      (∀ a, s.par.n ≤ a → t.strip.read a = s.strip.read a)) ∧
    forEach (fun _ => exec .rotate) (List.range s.par.n) s = .next s

/-- 42_pixel_strip.md R172: the operations of the strip keep every hue at most 191 and every level at most 6; FADE,
CLEAR, ROTATE and PXGET never refuse; setting a pixel twice and rotating moves exactly the second pair to the next
index; and a frame after CLEAR is all 0 bits whatever the hues, for both conversions. -/
def Obligations.StripProperties : Prop :=
  ∀ s : State, s.par.Legal → s.strip.wf → StripInRange s.par s.strip →
    (∀ (i h : Byte) (l : Level) (op : Instr) (t : State),
      op ∈ [.pxset i h l, .pxget i, .fade, .clear, .fill h l, .rotate] → exec op s = .next t →
      ∀ a, (entryHue (t.strip.read a)).toNat ≤ 191 ∧ (entryLevel (t.strip.read a)).toNat ≤ 6) ∧
    (∀ i : Byte, ∀ op ∈ [Instr.fade, .clear, .rotate, .pxget i], ∃ t, exec op s = .next t) ∧
    (∀ i : Byte, ∃ t, andThen (exec (.pxset i 0 6) s)
          (fun u => andThen (exec (.pxset i 64 6) u) (exec .rotate)) = .next t ∧
      t.strip.read ((i.toNat + 1) % s.par.n) = mkEntry 64 6) ∧
    (∃ t, andThen (exec .clear s) (exec .showFrame) = .next t ∧
      t.symbolHistory = s.symbolHistory ++ List.replicate (24 * s.par.n) .b0 ++ [.latch])

/-! ### The generator -/

/-- 45_prng.md R246: the update of the state, bit by bit and as the formula, with its examples. -/
def Obligations.PrngUpdateBits : Prop :=
  (∀ s : Word, prngUpd s = (s <<< 16) ||| (((s <<< 1) ^^^ (s <<< 2)) >>> 16)) ∧
    (∀ s : Word, (((s <<< 1) ^^^ (s <<< 2)) >>> 16).toNat ≤ 0xFFFF) ∧
    (∀ (s : Word) (j : Nat), j < 16 → (prngUpd s).getLsbD (j + 16) = s.getLsbD j) ∧
    (∀ (s : Word) (j : Nat), j < 16 → (prngUpd s).getLsbD j = (s.getLsbD (j + 15) ^^ s.getLsbD (j + 14))) ∧
    (∀ s : Word, prngUpd (s ^^^ 0x80000000) = prngUpd s) ∧
    prngUpd 0xDEADBEEF = 0xBEEFC7ED ∧ prngUpd 0xBEEFC7ED = 0xC7ED8660 ∧ prngUpd 0xC7ED8660 = 0x8660906D

/-- 45_prng.md R247: RNEXT updates S first and leaves the new state modulo m in RV, below m; nothing else changes. -/
def Obligations.RnextUpdatesThenReduces : Prop :=
  ∀ (m : BitVec 24) (s : State), m ≠ 0 →
    ∃ t, exec (.rnext m) s = .next t ∧ t.prng = prngUpd s.prng ∧ t.rv.toNat = t.prng.toNat % m.toNat ∧
      t.rv.toNat < m.toNat ∧ t = { s with prng := t.prng, rv := t.rv }

/-! ### The animation -/

/-- 43_animation.md R186: FX0 sets both comets and AST and nothing else; no frame is sent. -/
def Obligations.Fx0SetsTheComets : Prop :=
  ∀ s : State, s.par.Legal →
    ∃ t, exec .fx0 s = .next t ∧ cometIdx t.ca = 0 ∧ cometHue t.ca = 0 ∧ (cometIdx t.cb).toNat = s.par.n / 2 ∧
      cometHue t.cb = 96 ∧ t.ast = 1 ∧ t = { s with ca := t.ca, cb := t.cb, ast := t.ast }

/-- 43_animation.md R187: FX1 fades the strip, moves both comets one hue step and one index step, stores their pixels
at level 6, comet A before comet B, and sends one frame. -/
def Obligations.Fx1MovesTheComets : Prop :=
  ∀ s : State, s.InRange →
    ∃ t, exec .fx1 s = .next t ∧
      (cometHue t.ca).toNat = ((cometHue s.ca).toNat + 1) % 192 ∧
      (cometIdx t.ca).toNat = ((cometIdx s.ca).toNat + 1) % s.par.n ∧
      (cometHue t.cb).toNat = ((cometHue s.cb).toNat + 1) % 192 ∧
      (cometIdx t.cb).toNat = ((cometIdx s.cb).toNat + 1) % s.par.n ∧
      (∀ p, p < s.par.n → t.strip.read p =
        if p = (cometIdx t.cb).toNat then mkEntry (cometHue t.cb) 6
        else if p = (cometIdx t.ca).toNat then mkEntry (cometHue t.ca) 6
        else mkEntry (entryHue (s.strip.read p)) (BitVec.ofNat 3 ((entryLevel (s.strip.read p)).toNat - 1))) ∧
      FrameSent s t ∧
      t = { s with ca := t.ca, cb := t.cb, strip := t.strip, stat := t.stat, rgb := t.rgb, line := t.line }

/-- 43_animation.md R188: FX2 fades the strip, draws k = next(4), then k times an index next(N) and a hue next(192),
the later hue winning on one index, and sends one frame; 1 + 2 k calls of the generator, the last value in RV. -/
def Obligations.Fx2ScattersPixels : Prop :=
  ∀ s : State, s.InRange →
    let k := (prngUpd s.prng).toNat % 4
    let idx := fun j => (prngUpd^[2 + 2 * j] s.prng).toNat % s.par.n
    let hue := fun j => BitVec.ofNat 8 ((prngUpd^[3 + 2 * j] s.prng).toNat % 192)
    ∃ t, exec .fx2 s = .next t ∧ t.prng = prngUpd^[1 + 2 * k] s.prng ∧
      t.rv.toNat = (if k = 0 then t.prng.toNat % 4 else t.prng.toNat % 192) ∧
      (∀ p, p < s.par.n →
        (∀ j, j < k → idx j = p → (∀ j', j < j' → j' < k → idx j' ≠ p) → t.strip.read p = mkEntry (hue j) 6) ∧
        ((∀ j, j < k → idx j ≠ p) → t.strip.read p =
          mkEntry (entryHue (s.strip.read p)) (BitVec.ofNat 3 ((entryLevel (s.strip.read p)).toNat - 1)))) ∧
      FrameSent s t ∧
      t = { s with prng := t.prng, rv := t.rv, strip := t.strip, stat := t.stat, rgb := t.rgb, line := t.line }

/-- 43_animation.md R189: FX3 gives every pixel its own random hue at level 6, in ascending order, sends one frame and
moves to state 4; N calls of the generator, the last value in RV. -/
def Obligations.Fx3RandomisesEveryPixel : Prop :=
  ∀ s : State, s.InRange →
    ∃ t, exec .fx3 s = .next t ∧ t.prng = prngUpd^[s.par.n] s.prng ∧ t.rv.toNat = t.prng.toNat % 192 ∧ t.ast = 4 ∧
      (∀ p, p < s.par.n →
        t.strip.read p = mkEntry (BitVec.ofNat 8 ((prngUpd^[p + 1] s.prng).toNat % 192)) 6) ∧
      FrameSent s t ∧
      t = { s with prng := t.prng, rv := t.rv, ast := t.ast, strip := t.strip
                   stat := t.stat, rgb := t.rgb, line := t.line }

/-- 43_animation.md R190: FX4 adds a random increment below DRIFT_MAX to every hue modulo 192, in ascending order,
keeps every level, and sends one frame; N calls of the generator, the last value in RV. -/
def Obligations.Fx4DriftsEveryHue : Prop :=
  ∀ s : State, s.InRange →
    ∃ t, exec .fx4 s = .next t ∧ t.prng = prngUpd^[s.par.n] s.prng ∧ t.rv.toNat = t.prng.toNat % s.par.driftMax ∧
      (∀ p, p < s.par.n →
        (entryHue (t.strip.read p)).toNat =
            ((entryHue (s.strip.read p)).toNat + (prngUpd^[p + 1] s.prng).toNat % s.par.driftMax) % 192 ∧
          entryLevel (t.strip.read p) = entryLevel (s.strip.read p)) ∧
      FrameSent s t ∧
      t = { s with prng := t.prng, rv := t.rv, strip := t.strip, stat := t.stat, rgb := t.rgb, line := t.line }

/-- 43_animation.md R191: FX5 spaces the hues evenly, (p * 192) div N, at level 6, sends one frame and moves to state
6. -/
def Obligations.Fx5SetsTheRainbow : Prop :=
  ∀ s : State, s.InRange →
    ∃ t, exec .fx5 s = .next t ∧ t.ast = 6 ∧
      (∀ p, p < s.par.n → (entryHue (t.strip.read p)).toNat = p * 192 / s.par.n ∧ entryLevel (t.strip.read p) = 6) ∧
      FrameSent s t ∧
      t = { s with ast := t.ast, strip := t.strip, stat := t.stat, rgb := t.rgb, line := t.line }

/-- 43_animation.md R192: FX6 rotates the strip by one position and sends one frame. -/
def Obligations.Fx6RotatesTheRainbow : Prop :=
  ∀ s : State, s.InRange →
    ∃ t, exec .fx6 s = .next t ∧
      (∀ p, p < s.par.n → t.strip.read p = s.strip.read ((p + s.par.n - 1) % s.par.n)) ∧
      FrameSent s t ∧ t = { s with strip := t.strip, stat := t.stat, rgb := t.rgb, line := t.line }

/-- 43_animation.md R193: FX7 takes the global hue one step on, modulo 192, fills the strip with it at level 6, and
sends one frame. -/
def Obligations.Fx7BreathesOneHue : Prop :=
  ∀ s : State, s.InRange →
    ∃ t, exec .fx7 s = .next t ∧ t.ghue.toNat = (s.ghue.toNat + 1) % 192 ∧
      (∀ p, p < s.par.n → t.strip.read p = mkEntry t.ghue 6) ∧
      FrameSent s t ∧ t = { s with ghue := t.ghue, strip := t.strip, stat := t.stat, rgb := t.rgb, line := t.line }

/-- 43_animation.md R194: ANEXT takes AST to (AST + 1) mod 8 and clears TCNT; operation code 0x48, format F0. The
comets are not written: FX0 does that. -/
def Obligations.AnextAdvancesTheState : Prop :=
  encode .anext = 0x48000000 ∧
    ∀ s : State, ∃ t, exec .anext s = .next t ∧ t.ast.toNat = (s.ast.toNat + 1) % 8 ∧ t.tcnt = 0 ∧
      t = { s with ast := t.ast, tcnt := t.tcnt }

/-- 43_animation.md R195: ATICK counts one period, and at AUTO_TICKS does what ANEXT does. -/
def Obligations.AtickCountsPeriods : Prop :=
  ∀ s : State, s.InRange →
    (s.tcnt.toNat + 1 = s.par.autoTicks → exec .atick s = exec .anext s ∧
      ∃ t, exec .atick s = .next t ∧ t.ast = s.ast + 1 ∧ t.tcnt = 0 ∧ t = { s with ast := t.ast, tcnt := t.tcnt }) ∧
    (s.tcnt.toNat + 1 ≠ s.par.autoTicks →
      ∃ t, exec .atick s = .next t ∧ t.tcnt.toNat = s.tcnt.toNat + 1 ∧ t = { s with tcnt := t.tcnt })

/-- 43_animation.md R196: the transitions of AST, complete: "No other rule writes `AST`". 45_prng.md R245, R249: no
operation writes S but FX2, FX3, FX4, GRESET, GCATCH and RNEXT, and GINIT and GPOLL, which call GRESET and GCATCH; and
what any of them leaves in S is its old value after some number of updates. -/
def Obligations.AstAndSHaveTheirWriters : Prop :=
  ∀ (i : Instr) (s t : State), exec i s = .next t →
    (i = .fx0 → t.ast = 1) ∧ (i = .fx3 → t.ast = 4) ∧ (i = .fx5 → t.ast = 6) ∧ (i = .anext → t.ast = s.ast + 1) ∧
      (i = .atick → t.ast = if s.tcnt.toNat + 1 = s.par.autoTicks then s.ast + 1 else s.ast) ∧
      (i ∉ [Instr.fx0, .fx3, .fx5, .anext, .atick] → t.ast = s.ast) ∧
      (∃ k, t.prng = prngUpd^[k] s.prng) ∧
      (t.prng ≠ s.prng →
        (∃ m, i = .rnext m) ∨ i ∈ [Instr.fx2, .fx3, .fx4, .greset, .gcatch, .ginit, .gpoll])

/-- 30_encoding.md R113, 43_animation.md R196, R198: the operation of animation state a is that with operation code
0x40 + a; one invocation from any state runs the operation of AST, which leaves AST as the table says, always at one
of the states that repeat; an ANEXT that follows moves on by one, 7 to 0. -/
def Obligations.InvocationFollowsTheTable : Prop :=
  (∀ a : BitVec 3, (opField (encode (fxOf a))).toNat = 0x40 + a.toNat) ∧
  ∀ s : State, s.InRange →
    ∃ t u, exec (fxOf s.ast) s = .next t ∧
      t.ast = (if s.ast = 0 then 1 else if s.ast = 3 then 4 else if s.ast = 5 then 6 else s.ast) ∧
      t.ast ∈ ([1, 2, 4, 6, 7] : List (BitVec 3)) ∧ exec .anext t = .next u ∧ u.ast = t.ast + 1 ∧ u.tcnt = 0

/-! ### The game -/

/-- 44_game.md R216: the deadline test: the difference read as a signed number is not negative; true at the deadline
and for the 2^31 - 1 counter values after it, whatever wraps. -/
def Obligations.DeadlineTestIsWrapSafe : Prop :=
  (∀ t d : Word, reached t d = true ↔ 0 ≤ (t - d).toInt) ∧
    (∀ (d : Word) (k : Nat), k < 2 ^ 32 → (reached (d + BitVec.ofNat 32 k) d = true ↔ k < 2 ^ 31)) ∧
    reached 6000 6000 = true ∧ reached 3 0xFFFFFFF0 = true ∧ reached 5999 6000 = false

/-- 44_game.md R221, R225: GRENDER draws the hunter green, the deer red over it, all else off, and sends one frame. -/
def Obligations.GrenderDrawsTheGame : Prop :=
  ∀ s : State, s.InRange →
    ∃ t, exec .grender s = .next t ∧ GameDrawn s t ∧ FrameSent s t ∧
      t = { s with strip := t.strip, stat := t.stat, rgb := t.rgb, line := t.line }

/-- 44_game.md R217: GRESET places the deer at HUNTER + 4 + next(8) (mod N), flips the direction, sets the start speed
and draws; HUNTER and DEADLINE are not written. -/
def Obligations.GresetPlacesTheDeer : Prop :=
  ∀ s : State, s.InRange →
    ∃ t, exec .greset s = .next t ∧ t.prng = prngUpd s.prng ∧ t.rv.toNat = t.prng.toNat % 8 ∧
      t.deer.toNat = (s.hunter.toNat + 4 + t.rv.toNat) % s.par.n ∧ t.dir ≠ s.dir ∧ t.speed = s.par.s0 ∧
      GameDrawn s t ∧ FrameSent s t ∧
      t = { s with
        prng := t.prng, rv := t.rv, deer := t.deer, dir := t.dir, speed := t.speed
        strip := t.strip, stat := t.stat, rgb := t.rgb, line := t.line }

/-- 44_game.md R218: GINIT samples the counter, sets the first deadline to the sample plus S0 modulo 2^32, and resets.
-/
def Obligations.GinitStartsTheGame : Prop :=
  ∀ s : State, s.InRange →
    ∃ t, exec .ginit s = .next t ∧ t.tnow = s.env.cnt ∧
      t.deadline.toNat = (s.env.cnt.toNat + s.par.s0.toNat) % 2 ^ 32 ∧ t.prng = prngUpd s.prng ∧
      t.rv.toNat = t.prng.toNat % 8 ∧ t.deer.toNat = (s.hunter.toNat + 4 + t.rv.toNat) % s.par.n ∧ t.dir ≠ s.dir ∧
      t.speed = s.par.s0 ∧ GameDrawn s t ∧ FrameSent s t ∧
      t = { s with
        tnow := t.tnow, deadline := t.deadline, prng := t.prng, rv := t.rv, deer := t.deer, dir := t.dir
        speed := t.speed, strip := t.strip, stat := t.stat, rgb := t.rgb, line := t.line }

/-- 44_game.md R219: GSTEP moves the hunter one index in its direction (mod N), sets the deadline to TNOW + SPEED
modulo 2^32, and draws. -/
def Obligations.GstepMovesTheHunter : Prop :=
  ∀ s : State, s.InRange →
    ∃ t, exec .gstep s = .next t ∧
      (s.dir = 0 → t.hunter.toNat = (s.hunter.toNat + 1) % s.par.n) ∧
      (s.dir = 1 → t.hunter.toNat = (s.hunter.toNat + s.par.n - 1) % s.par.n) ∧
      t.deadline.toNat = (s.tnow.toNat + s.speed.toNat) % 2 ^ 32 ∧ GameDrawn s t ∧ FrameSent s t ∧
      t = { s with
        hunter := t.hunter, deadline := t.deadline, strip := t.strip, stat := t.stat, rgb := t.rgb, line := t.line }

/-- 44_game.md R220: GCATCH relocates the deer by the same placement, flips the direction, draws, and, while SPEED is
not below SPEED_DEC, takes SPEED_DEC off SPEED; below it, under the reference instance of `speed_after_underflow`
(R224; which instance holds is a parameter of the model, log 6), the decrement wraps modulo 2^32. HUNTER and DEADLINE
are not written. -/
def Obligations.GcatchSpeedsUpTheGame : Prop :=
  ∀ s : State, s.InRange →
    ∃ t, exec .gcatch s = .next t ∧ t.prng = prngUpd s.prng ∧ t.rv.toNat = t.prng.toNat % 8 ∧
      t.deer.toNat = (s.hunter.toNat + 4 + t.rv.toNat) % s.par.n ∧ t.dir ≠ s.dir ∧
      (s.par.speedDec.toNat ≤ s.speed.toNat → t.speed.toNat = s.speed.toNat - s.par.speedDec.toNat) ∧
      (s.speed.toNat < s.par.speedDec.toNat → s.par.underflow = .wraps →
        t.speed.toNat = s.speed.toNat + 2 ^ 32 - s.par.speedDec.toNat) ∧
      GameDrawn s t ∧ FrameSent s t ∧
      t = { s with
        prng := t.prng, rv := t.rv, deer := t.deer, dir := t.dir, speed := t.speed
        strip := t.strip, stat := t.stat, rgb := t.rgb, line := t.line }

/-- 44_game.md R222: GPOLL is the counter sample, the time test (a miss resets, a deadline reached steps), then the
button sample, before which the environment may move (the model's, log 1), and the button test (a catch, or a false
start). -/
def Obligations.GpollRunsOnePoll : Prop :=
  ∀ s : State, s.InRange →
    ∃ u t, exec .gpoll s = .next t ∧
      (let n := { s with tnow := s.env.cnt }
       (reached s.env.cnt s.deadline = false → u = n) ∧
         (reached s.env.cnt s.deadline = true → s.hunter = s.deer → exec .greset n = .next u) ∧
         (reached s.env.cnt s.deadline = true → s.hunter ≠ s.deer → exec .gstep n = .next u)) ∧
      (u.envInside.env.btnN = true → exec .rdbtn u.envInside = .next t) ∧
      (u.envInside.env.btnN = false →
        ∃ v, exec .rdbtn u.envInside = .next v ∧
          (v.hunter = v.deer → exec .gcatch v = .next t) ∧ (v.hunter ≠ v.deer → exec .greset v = .next t))

/-! ### The system operations -/

/-- 46_system.md R256 to R258, R262 to R264: PINCFG drives the line low; IRQOFF opens the critical section and has no
count; IRQON closes it, after which any time may pass with the line low, and does nothing when it is closed; RDBTN
samples the button, 1 is pressed; RDCNT samples the counter; ARMWAKE n puts its request on the arm ports and sets
STAT.TARM. W records time if the line is driven (log 12). -/
def Obligations.PinsMaskAndSamples : Prop :=
  ∀ s : State,
    (∃ t, exec .pincfg s = .next t ∧ t.dout = false ∧ t.oe = true ∧ statFrame [6, 7] s t ∧
      t = { s with stat := t.stat } ∧ exec .pincfg t = .next t) ∧
    (∃ t, exec .irqoff s = .next t ∧ t.im = true ∧ statFrame [1] s t ∧ t = { s with stat := t.stat }) ∧
    (s.im = true → ∃ t d, exec .irqon s = .next t ∧ t.im = false ∧ statFrame [1] s t ∧
      t.line.segs = s.lowFor d ∧ t.symbolHistory = s.symbolHistory ∧
      t = { s with stat := t.stat, line := t.line }) ∧
    (s.im = false → exec .irqon s = .next s) ∧
    (∃ t, exec .rdbtn s = .next t ∧ t.bs = !s.env.btnN ∧ statFrame [3] s t ∧ t = { s with stat := t.stat }) ∧
    (∃ t, exec .rdcnt s = .next t ∧ t.tnow = s.env.cnt ∧ t = { s with tnow := t.tnow }) ∧
    ∀ n : BitVec 24, n ≠ 0 →
      ∃ t, exec (.armwake n) s = .next t ∧ t.tarm = true ∧ t.portArm = some n ∧ statFrame [4] s t ∧
        t = { s with stat := t.stat, armMs := t.armMs }

/-- 46_system.md R259, R260: DELAYUS n and DELAYMS n, outside the critical section, complete at once for n = 0, and
else request the delay, hold, and complete when it is over (one poll of `dly_done` a step is the model's, log 9); at
least n units pass with the line low, which W records if the line is driven (log 12). -/
def Obligations.DelaysLastAtLeastAsLong : Prop :=
  ∀ (n : BitVec 24) (s : State), s.im = false →
    ∀ q ∈ [(Instr.delayus n, DelayUnit.us, 1000), (Instr.delayms n, DelayUnit.ms, 1000000)],
      (n ≠ 0 → s.hold ≠ .delay q.2.1 n.toNat →
        ∃ t, exec q.1 s = .next t ∧ t.portDly = some (q.2.1, n) ∧
          t = { s with hold := .delay q.2.1 n.toNat, env := { s.env with dlyDone := false } }) ∧
      (n ≠ 0 → s.hold = .delay q.2.1 n.toNat → s.env.dlyDone = false → exec q.1 s = .next s) ∧
      (n ≠ 0 → s.hold = .delay q.2.1 n.toNat → s.env.dlyDone = true →
        ∃ t d, exec q.1 s = .next t ∧ Config.ns (q.2.2 * n.toNat) ≤ d ∧ t.line.segs = s.lowFor d ∧
          t.symbolHistory = s.symbolHistory ∧
          t = { s with line := t.line, hold := .running, env := { s.env with dlyDone := false } }) ∧
      (n = 0 → ∃ t d, exec q.1 s = .next t ∧ t.line.segs = s.lowFor d ∧
        t.symbolHistory = s.symbolHistory ∧ t = { s with line := t.line, hold := .running })

/-- 46_system.md R261, 60_exceptions.md R305: WFE, outside the critical section, holds while STAT.WAKE = 0 and changes
nothing else; with STAT.WAKE = 1 it clears the flag and completes, and any time has passed with the line low, which W
records if the line is driven (log 12). -/
def Obligations.WfeWaitsForTheWakeFlag : Prop :=
  ∀ s : State, s.im = false →
    (s.wake = false → exec .wfe s = .next { s with hold := .event }) ∧
    (s.wake = true → ∃ t d, exec .wfe s = .next t ∧ t.wake = false ∧ statFrame [0] s t ∧
      t.line.segs = s.lowFor d ∧ t.symbolHistory = s.symbolHistory ∧
      t = { s with stat := t.stat, line := t.line, hold := .running })

/-- 46_system.md R265: WAITREL, outside the critical section, samples the button; pressed, it holds with STAT.BS = 1;
released, it completes with STAT.BS = 0, and any time has passed with the line low, which W records if the line is
driven (log 12). -/
def Obligations.WaitrelWaitsForTheRelease : Prop :=
  ∀ s : State, s.im = false →
    (s.env.btnN = false → ∃ t, exec .waitrel s = .next t ∧ t.bs = true ∧ statFrame [3] s t ∧
      t = { s with stat := t.stat, hold := .release }) ∧
    (s.env.btnN = true → ∃ t d, exec .waitrel s = .next t ∧ t.bs = false ∧ statFrame [3] s t ∧
      t.line.segs = s.lowFor d ∧ t.symbolHistory = s.symbolHistory ∧
      t = { s with stat := t.stat, line := t.line, hold := .running })

/-! ### The environment and reset -/

/-- 46_system.md R276, 60_exceptions.md R292 to R296: an armed tick and an armed press edge set STAT.WAKE, whatever
STAT.IM is; an unarmed event, a release and the passing of time do not. -/
def Obligations.EnabledEventsSetWake : Prop :=
  ∀ s : State,
    (s.envMove .tick).wake = (s.wake || s.tarm) ∧
      (∀ v, (s.envMove (.btn v)).wake = (s.wake || (s.barm && s.env.btnN && !v)) ∧
        (s.envMove (.btn v)).env = { s.env with btnN := v }) ∧
      (∀ k, (s.envMove (.time k)).env.cnt.toNat = (s.env.cnt.toNat + k) % 2 ^ 32 ∧
        (s.envMove (.time k)).stat = s.stat) ∧
      (s.envMove .delayDone).stat = s.stat ∧ statFrame [0] s (s.envMove .tick) ∧
      ∀ v, statFrame [0] s (s.envMove (.btn v))

/-- 46_system.md R276, R279, 60_exceptions.md R303: between resets the environment writes no state of CORE but
STAT.WAKE, and never clears it. When its script is used up, its turns are those of the model's continuation (log 1,
log 2), which is fair: once STAT.TARM = 1 a tick comes within 64 turns, whatever CORE waits for; a requested delay
ends; and time passes. -/
def Obligations.EnvironmentWritesOnlyWake : Prop :=
  ∀ s : State, .reset ∉ s.env.script →
    s.envTurn = { s with stat := s.envTurn.stat, env := s.envTurn.env } ∧ statFrame [0] s s.envTurn ∧
      (s.wake = true → s.envTurn.wake = true) ∧
      (s.env.script = [] →
        (s.tarm = true → ∃ k, k < 64 ∧ (State.envTurn^[k + 1] s).wake = true) ∧
          (s.portDlyReq = true → s.envTurn.env.dlyDone = true) ∧
          s.envTurn.env.cnt.toNat = (s.env.cnt.toNat + 1) % 2 ^ 32 ∧ s.envTurn.env.script = [])

/-- 70_reset_and_hazards.md R320, R321, 10_state.md R58: a reset that comes in the environment's turn after a move of
CORE leaves every register, the strip and the record as the table of R58 says, whatever they were. The environment's
own state is not reset. That a reset comes between two moves of CORE is the model's (log 20). -/
def Obligations.ResetRestoresEveryRegister : Prop :=
  ∀ (s u : State) (es : List EnvEvent), coreStep s = .next u → u.env.script = .reset :: es →
    ∃ t, step s = .next t ∧ t.cfg = u.par.straps ∧ t.stat = 0 ∧ t.seq = 0 ∧ t.part = .first ∧
      t.ast = 0 ∧ t.tcnt = 0 ∧ t.ca = 0 ∧
      t.cb = 0 ∧ t.ghue = 0 ∧ t.prng = u.par.seed ∧ t.rv = 0 ∧ t.rgb = 0 ∧ t.pxr = 0 ∧ t.tnow = 0 ∧ t.hunter = 0 ∧
      t.deer = 0 ∧ t.dir = 0 ∧ t.deadline = 0 ∧ t.speed = u.par.s0 ∧ (∀ a, t.strip.read a = 0) ∧
      t.wireHistory = [] ∧ t.symbolHistory = [] ∧ t.par = u.par ∧ t.env = { u.env with script := es }

/-! ### The sequencer -/

/-- 46_system.md R267: BOOT issues PINCFG, and with the GameEngine goes to G_INIT; with the AnimationEngine it then
decides the mode by one sample, arming the press edge only in manual mode, then arms the timer, and waits out a held
button. Each operation is a step of its own (00_scope.md R8; the field `part`, log 10). -/
def Obligations.BootDecidesTheMode : Prop :=
  ∀ s : State, s.pending = [] → s.seq = 0 → s.hold = .running → s.par.refreshMs ≠ 0 →
    (s.part = .first → ∃ t, exec .pincfg s = .next t ∧ t.oe = true ∧ t.dout = false ∧
      (s.engine = true → coreStep s = .next { t with seq := 7, part := .first }) ∧
      (s.engine = false → coreStep s = .next { t with part := .second })) ∧
    (s.part = .second → ∃ t, coreStep s = .next t ∧ t.bs = !s.env.btnN ∧ t.man = !s.env.btnN ∧ t.barm = !s.env.btnN ∧
      statFrame [2, 3, 5] s t ∧ t = { s with stat := t.stat, part := .third }) ∧
    (s.part = .third → ∃ t, exec (.armwake s.par.refreshMs) s = .next t ∧
      coreStep s = .next { t with seq := if s.bs then 5 else 1, part := .first })

/-- 46_system.md R268 to R273: the labels of the animation loop: what each issues and where it goes, in every state
that the label can be in: before its operation, while it holds, and when what it waits for has come. A wait keeps its
label. Each operation is a step of its own (00_scope.md R8; the field `part`, log 10). -/
def Obligations.AnimationLabelsRunTheLoop : Prop :=
  ∀ s : State, s.InRange → s.Autonomous →
    let dly := Hold.delay .ms s.par.settleMs.toNat
    (s.seq = 1 → s.hold = .running →
      ∃ t, exec (fxOf s.ast) s = .next t ∧ coreStep s = .next { t with seq := 2, part := .first }) ∧
    (s.seq = 2 → s.hold = .running → s.man = false →
      ∃ t, exec .atick s = .next t ∧ coreStep s = .next { t with seq := 3, part := .first }) ∧
    (s.seq = 2 → s.hold = .running → s.man = true → coreStep s = .next { s with seq := 3, part := .first }) ∧
    (s.seq = 3 → s.wake = true →
      ∃ t, exec .wfe s = .next t ∧ coreStep s = .next { t with seq := 4, part := .first }) ∧
    (s.seq = 3 → s.wake = false → coreStep s = .next { s with hold := .event }) ∧
    (s.seq = 4 → s.hold = .running → s.part = .first → s.man = false →
      coreStep s = .next { s with seq := 1, part := .first }) ∧
    (s.seq = 4 → s.hold = .running → s.part = .first → s.man = true → ∃ t, exec .rdbtn s = .next t ∧
      (s.env.btnN = true → coreStep s = .next { t with seq := 1, part := .first }) ∧
      (s.env.btnN = false → coreStep s = .next { t with part := .second })) ∧
    (s.seq = 4 → s.hold = .running → s.part = .second →
      ∃ t, exec .anext s = .next t ∧ coreStep s = .next { t with seq := 5, part := .first }) ∧
    (s.seq = 5 → s.env.btnN = true →
      ∃ t, exec .waitrel s = .next t ∧ coreStep s = .next { t with seq := 6, part := .first }) ∧
    (s.seq = 5 → s.env.btnN = false →
      ∃ t, exec .waitrel s = .next t ∧ coreStep s = .next t ∧ t.seq = 5 ∧ t.hold = .release) ∧
    (s.seq = 6 → s.par.settleMs = 0 ∨ (s.hold = dly ∧ s.env.dlyDone = true) →
      ∃ t, exec (.delayms s.par.settleMs) s = .next t ∧ coreStep s = .next { t with seq := 1, part := .first }) ∧
    (s.seq = 6 → s.par.settleMs ≠ 0 → s.hold ≠ dly →
      ∃ t, exec (.delayms s.par.settleMs) s = .next t ∧ coreStep s = .next t ∧ t.seq = 6 ∧ t.hold = dly) ∧
    (s.seq = 6 → s.par.settleMs ≠ 0 → s.hold = dly → s.env.dlyDone = false → coreStep s = .next s)

/-- 46_system.md R274, R275: the labels of the game loop: what each issues and where it goes, in every state that the
label can be in. A wait keeps its label. -/
def Obligations.GameLabelsRunTheLoop : Prop :=
  ∀ s : State, s.InRange → s.Autonomous →
    let dly := Hold.delay .ms s.par.settleMs.toNat
    (s.seq = 7 → s.hold = .running →
      ∃ t, exec .ginit s = .next t ∧ coreStep s = .next { t with seq := 8, part := .first }) ∧
    (s.seq = 8 → s.hold = .running →
      ∃ t, exec .gpoll s = .next t ∧ coreStep s = .next { t with seq := if t.bs then 9 else 8, part := .first }) ∧
    (s.seq = 9 → s.env.btnN = true →
      ∃ t, exec .waitrel s = .next t ∧ coreStep s = .next { t with seq := 10, part := .first }) ∧
    (s.seq = 9 → s.env.btnN = false →
      ∃ t, exec .waitrel s = .next t ∧ coreStep s = .next t ∧ t.seq = 9 ∧ t.hold = .release) ∧
    (s.seq = 10 → s.par.settleMs = 0 ∨ (s.hold = dly ∧ s.env.dlyDone = true) →
      ∃ t, exec (.delayms s.par.settleMs) s = .next t ∧ coreStep s = .next { t with seq := 8, part := .first }) ∧
    (s.seq = 10 → s.par.settleMs ≠ 0 → s.hold ≠ dly →
      ∃ t, exec (.delayms s.par.settleMs) s = .next t ∧ coreStep s = .next t ∧ t.seq = 10 ∧ t.hold = dly) ∧
    (s.seq = 10 → s.par.settleMs ≠ 0 → s.hold = dly → s.env.dlyDone = false → coreStep s = .next s)

/-! ### The whole machine -/

/-- 10_state.md R32 to R34, R30, R299: no operation writes CFG, SEQ (nor the position within its label), the
parameters or the client's list, or changes STAT.MAN or STAT.BARM; none clears STAT.TARM or STAT.OE, and none but WFE
clears STAT.WAKE. -/
def Obligations.OperationsKeepTheControlState : Prop :=
  ∀ (i : Instr) (s t : State), exec i s = .next t →
    t.cfg = s.cfg ∧ t.seq = s.seq ∧ t.part = s.part ∧ t.par = s.par ∧
      t.pending = s.pending ∧ t.man = s.man ∧ t.barm = s.barm ∧
      (s.tarm = true → t.tarm = true) ∧ (s.oe = true → t.oe = true) ∧ (i ≠ .wfe → s.wake = true → t.wake = true)

/-- 10_state.md R57: with ENGINE = 0 the sequencer never writes the game's registers; with ENGINE = 1 it never writes
the animation's, nor arms anything. The labels are those of the engine that runs, and of BOOT only PINCFG is the
game's. -/
def Obligations.EnginesOwnTheirRegisters : Prop :=
  ∀ s t : State, s.pending = [] → coreStep s = .next t →
    (s.engine = false → s.seq.toNat ≤ 6 →
      t.seq.toNat ≤ 6 ∧ t.hunter = s.hunter ∧ t.deer = s.deer ∧ t.dir = s.dir ∧ t.speed = s.speed ∧
        t.deadline = s.deadline) ∧
    (s.engine = true → (s.seq = 0 ∧ s.part = .first) ∨ (7 ≤ s.seq.toNat ∧ s.seq.toNat ≤ 10) →
      ((t.seq = 0 ∧ t.part = .first) ∨ (7 ≤ t.seq.toNat ∧ t.seq.toNat ≤ 10)) ∧
        t.ast = s.ast ∧ t.tcnt = s.tcnt ∧ t.ca = s.ca ∧ t.cb = s.cb ∧
        t.ghue = s.ghue ∧ t.man = s.man ∧ t.tarm = s.tarm ∧ t.barm = s.barm)

/-- 10_state.md R56, R58: every legal choice of parameters starts in range, before PINCFG, with nothing driven and nothing
received by the LED chain, and the reference values are legal. T_WINDOW_NS and the environment's values at reset are
the model's (log 4, log 7). -/
def Obligations.ResetIsInRange : Prop :=
  (∀ p : Config.Params, p.Legal → (State.resetOf p).InRange ∧ ChainClean (State.resetOf p) ∧
      (State.resetOf p).PinsConfigured ∧ (State.resetOf p).oe = false ∧ (State.resetOf p).wireHistory = []) ∧
    Config.reference.Legal

/-- 10_state.md R56, 20_memory.md R72: every step keeps the range invariants and the canonical form of the strip,
whatever descriptors a client issues and whatever the environment does, a reset included. -/
def Obligations.StepKeepsTheRanges : Prop := ∀ s t : State, s.InRange → step s = .next t → t.InRange

/-- 46_system.md R266, R277: "A refusal cannot occur in the sequencer's own programmes": while no client issues
anything and the critical section is closed, every step from a state in range answers a next state, and that state is
such again. -/
def Obligations.SequencerIsNeverRefused : Prop :=
  ∀ s : State, s.InRange → s.Autonomous → ∃ t, step s = .next t ∧ t.InRange ∧ t.Autonomous

/-- 40_transmitter.md R139: "The sequencer's programmes only ever emit through `SHOW`, so every frame CORE sends in
normal running is complete and good". What a step of the sequencer adds to W is a list of good frames (R136), each
ended by its latch gap, or, when it sends none, time with the line low; the chain has nothing half received after it,
and displays the last of these frames, or what it displayed before. A step whose turn ends in a reset leaves W empty
(log 20). The chain is the function of W of R138, by which a low before the first pulse spoils no frame (log 14). The
sequencer has issued PINCFG before its first frame (R267), so every frame is driven: that every step keeps
`PinsConfigured` is StepKeepsTheWireLegal. -/
def Obligations.SequencerSendsOnlyGoodFrames : Prop :=
  ∀ s t : State, s.InRange → s.Autonomous → s.PinsConfigured → ChainClean s → step s = .next t →
    t.wireHistory = [] ∨
      ∃ fs : List (List Rgb × List (Nat × Nat)), (∀ f ∈ fs, GoodFrame s f.1 f.2) ∧ ChainClean t ∧
        (fs = [] → (∃ d, t.line.segs = extendSegs d s.line.segs) ∧ t.shown = s.shown) ∧
        (fs ≠ [] → t.wireHistory = s.wireHistory ++ fs.flatMap (fun f => pulseSegs f.2) ∧
          ∃ f, fs.getLast? = some f ∧ t.shown = .colours f.1)
end

