-- ==== Sys2Proof/Laws/State.lean ====
section
/-! SUPPORT. What each named update does to each field of the state: one lemma per field per update. -/

namespace Sys2Proof.Machine

/-! ### The flags of STAT -/

@[simp] theorem State.setWake_cfg (b : Bool) (s : State) : (s.setWake b).cfg = s.cfg := rfl
@[simp] theorem State.setWake_stat (b : Bool) (s : State) : (s.setWake b).stat = setBit8 s.stat 0 b := rfl
@[simp] theorem State.setWake_seq (b : Bool) (s : State) : (s.setWake b).seq = s.seq := rfl
@[simp] theorem State.setWake_ast (b : Bool) (s : State) : (s.setWake b).ast = s.ast := rfl
@[simp] theorem State.setWake_tcnt (b : Bool) (s : State) : (s.setWake b).tcnt = s.tcnt := rfl
@[simp] theorem State.setWake_ca (b : Bool) (s : State) : (s.setWake b).ca = s.ca := rfl
@[simp] theorem State.setWake_cb (b : Bool) (s : State) : (s.setWake b).cb = s.cb := rfl
@[simp] theorem State.setWake_ghue (b : Bool) (s : State) : (s.setWake b).ghue = s.ghue := rfl
@[simp] theorem State.setWake_prng (b : Bool) (s : State) : (s.setWake b).prng = s.prng := rfl
@[simp] theorem State.setWake_rv (b : Bool) (s : State) : (s.setWake b).rv = s.rv := rfl
@[simp] theorem State.setWake_rgb (b : Bool) (s : State) : (s.setWake b).rgb = s.rgb := rfl
@[simp] theorem State.setWake_pxr (b : Bool) (s : State) : (s.setWake b).pxr = s.pxr := rfl
@[simp] theorem State.setWake_hunter (b : Bool) (s : State) : (s.setWake b).hunter = s.hunter := rfl
@[simp] theorem State.setWake_deer (b : Bool) (s : State) : (s.setWake b).deer = s.deer := rfl
@[simp] theorem State.setWake_dir (b : Bool) (s : State) : (s.setWake b).dir = s.dir := rfl
@[simp] theorem State.setWake_speed (b : Bool) (s : State) : (s.setWake b).speed = s.speed := rfl
@[simp] theorem State.setWake_deadline (b : Bool) (s : State) : (s.setWake b).deadline = s.deadline := rfl
@[simp] theorem State.setWake_tnow (b : Bool) (s : State) : (s.setWake b).tnow = s.tnow := rfl
@[simp] theorem State.setWake_strip (b : Bool) (s : State) : (s.setWake b).strip = s.strip := rfl
@[simp] theorem State.setWake_armMs (b : Bool) (s : State) : (s.setWake b).armMs = s.armMs := rfl
@[simp] theorem State.setWake_hold (b : Bool) (s : State) : (s.setWake b).hold = s.hold := rfl
@[simp] theorem State.setWake_part (b : Bool) (s : State) : (s.setWake b).part = s.part := rfl
@[simp] theorem State.setWake_line (b : Bool) (s : State) : (s.setWake b).line = s.line := rfl
@[simp] theorem State.setWake_pending (b : Bool) (s : State) : (s.setWake b).pending = s.pending := rfl
@[simp] theorem State.setWake_env (b : Bool) (s : State) : (s.setWake b).env = s.env := rfl
@[simp] theorem State.setWake_par (b : Bool) (s : State) : (s.setWake b).par = s.par := rfl

@[simp] theorem State.setIm_cfg (b : Bool) (s : State) : (s.setIm b).cfg = s.cfg := rfl
@[simp] theorem State.setIm_stat (b : Bool) (s : State) : (s.setIm b).stat = setBit8 s.stat 1 b := rfl
@[simp] theorem State.setIm_seq (b : Bool) (s : State) : (s.setIm b).seq = s.seq := rfl
@[simp] theorem State.setIm_ast (b : Bool) (s : State) : (s.setIm b).ast = s.ast := rfl
@[simp] theorem State.setIm_tcnt (b : Bool) (s : State) : (s.setIm b).tcnt = s.tcnt := rfl
@[simp] theorem State.setIm_ca (b : Bool) (s : State) : (s.setIm b).ca = s.ca := rfl
@[simp] theorem State.setIm_cb (b : Bool) (s : State) : (s.setIm b).cb = s.cb := rfl
@[simp] theorem State.setIm_ghue (b : Bool) (s : State) : (s.setIm b).ghue = s.ghue := rfl
@[simp] theorem State.setIm_prng (b : Bool) (s : State) : (s.setIm b).prng = s.prng := rfl
@[simp] theorem State.setIm_rv (b : Bool) (s : State) : (s.setIm b).rv = s.rv := rfl
@[simp] theorem State.setIm_rgb (b : Bool) (s : State) : (s.setIm b).rgb = s.rgb := rfl
@[simp] theorem State.setIm_pxr (b : Bool) (s : State) : (s.setIm b).pxr = s.pxr := rfl
@[simp] theorem State.setIm_hunter (b : Bool) (s : State) : (s.setIm b).hunter = s.hunter := rfl
@[simp] theorem State.setIm_deer (b : Bool) (s : State) : (s.setIm b).deer = s.deer := rfl
@[simp] theorem State.setIm_dir (b : Bool) (s : State) : (s.setIm b).dir = s.dir := rfl
@[simp] theorem State.setIm_speed (b : Bool) (s : State) : (s.setIm b).speed = s.speed := rfl
@[simp] theorem State.setIm_deadline (b : Bool) (s : State) : (s.setIm b).deadline = s.deadline := rfl
@[simp] theorem State.setIm_tnow (b : Bool) (s : State) : (s.setIm b).tnow = s.tnow := rfl
@[simp] theorem State.setIm_strip (b : Bool) (s : State) : (s.setIm b).strip = s.strip := rfl
@[simp] theorem State.setIm_armMs (b : Bool) (s : State) : (s.setIm b).armMs = s.armMs := rfl
@[simp] theorem State.setIm_hold (b : Bool) (s : State) : (s.setIm b).hold = s.hold := rfl
@[simp] theorem State.setIm_part (b : Bool) (s : State) : (s.setIm b).part = s.part := rfl
@[simp] theorem State.setIm_line (b : Bool) (s : State) : (s.setIm b).line = s.line := rfl
@[simp] theorem State.setIm_pending (b : Bool) (s : State) : (s.setIm b).pending = s.pending := rfl
@[simp] theorem State.setIm_env (b : Bool) (s : State) : (s.setIm b).env = s.env := rfl
@[simp] theorem State.setIm_par (b : Bool) (s : State) : (s.setIm b).par = s.par := rfl

@[simp] theorem State.setMan_cfg (b : Bool) (s : State) : (s.setMan b).cfg = s.cfg := rfl
@[simp] theorem State.setMan_stat (b : Bool) (s : State) : (s.setMan b).stat = setBit8 s.stat 2 b := rfl
@[simp] theorem State.setMan_seq (b : Bool) (s : State) : (s.setMan b).seq = s.seq := rfl
@[simp] theorem State.setMan_ast (b : Bool) (s : State) : (s.setMan b).ast = s.ast := rfl
@[simp] theorem State.setMan_tcnt (b : Bool) (s : State) : (s.setMan b).tcnt = s.tcnt := rfl
@[simp] theorem State.setMan_ca (b : Bool) (s : State) : (s.setMan b).ca = s.ca := rfl
@[simp] theorem State.setMan_cb (b : Bool) (s : State) : (s.setMan b).cb = s.cb := rfl
@[simp] theorem State.setMan_ghue (b : Bool) (s : State) : (s.setMan b).ghue = s.ghue := rfl
@[simp] theorem State.setMan_prng (b : Bool) (s : State) : (s.setMan b).prng = s.prng := rfl
@[simp] theorem State.setMan_rv (b : Bool) (s : State) : (s.setMan b).rv = s.rv := rfl
@[simp] theorem State.setMan_rgb (b : Bool) (s : State) : (s.setMan b).rgb = s.rgb := rfl
@[simp] theorem State.setMan_pxr (b : Bool) (s : State) : (s.setMan b).pxr = s.pxr := rfl
@[simp] theorem State.setMan_hunter (b : Bool) (s : State) : (s.setMan b).hunter = s.hunter := rfl
@[simp] theorem State.setMan_deer (b : Bool) (s : State) : (s.setMan b).deer = s.deer := rfl
@[simp] theorem State.setMan_dir (b : Bool) (s : State) : (s.setMan b).dir = s.dir := rfl
@[simp] theorem State.setMan_speed (b : Bool) (s : State) : (s.setMan b).speed = s.speed := rfl
@[simp] theorem State.setMan_deadline (b : Bool) (s : State) : (s.setMan b).deadline = s.deadline := rfl
@[simp] theorem State.setMan_tnow (b : Bool) (s : State) : (s.setMan b).tnow = s.tnow := rfl
@[simp] theorem State.setMan_strip (b : Bool) (s : State) : (s.setMan b).strip = s.strip := rfl
@[simp] theorem State.setMan_armMs (b : Bool) (s : State) : (s.setMan b).armMs = s.armMs := rfl
@[simp] theorem State.setMan_hold (b : Bool) (s : State) : (s.setMan b).hold = s.hold := rfl
@[simp] theorem State.setMan_part (b : Bool) (s : State) : (s.setMan b).part = s.part := rfl
@[simp] theorem State.setMan_line (b : Bool) (s : State) : (s.setMan b).line = s.line := rfl
@[simp] theorem State.setMan_pending (b : Bool) (s : State) : (s.setMan b).pending = s.pending := rfl
@[simp] theorem State.setMan_env (b : Bool) (s : State) : (s.setMan b).env = s.env := rfl
@[simp] theorem State.setMan_par (b : Bool) (s : State) : (s.setMan b).par = s.par := rfl

@[simp] theorem State.setBs_cfg (b : Bool) (s : State) : (s.setBs b).cfg = s.cfg := rfl
@[simp] theorem State.setBs_stat (b : Bool) (s : State) : (s.setBs b).stat = setBit8 s.stat 3 b := rfl
@[simp] theorem State.setBs_seq (b : Bool) (s : State) : (s.setBs b).seq = s.seq := rfl
@[simp] theorem State.setBs_ast (b : Bool) (s : State) : (s.setBs b).ast = s.ast := rfl
@[simp] theorem State.setBs_tcnt (b : Bool) (s : State) : (s.setBs b).tcnt = s.tcnt := rfl
@[simp] theorem State.setBs_ca (b : Bool) (s : State) : (s.setBs b).ca = s.ca := rfl
@[simp] theorem State.setBs_cb (b : Bool) (s : State) : (s.setBs b).cb = s.cb := rfl
@[simp] theorem State.setBs_ghue (b : Bool) (s : State) : (s.setBs b).ghue = s.ghue := rfl
@[simp] theorem State.setBs_prng (b : Bool) (s : State) : (s.setBs b).prng = s.prng := rfl
@[simp] theorem State.setBs_rv (b : Bool) (s : State) : (s.setBs b).rv = s.rv := rfl
@[simp] theorem State.setBs_rgb (b : Bool) (s : State) : (s.setBs b).rgb = s.rgb := rfl
@[simp] theorem State.setBs_pxr (b : Bool) (s : State) : (s.setBs b).pxr = s.pxr := rfl
@[simp] theorem State.setBs_hunter (b : Bool) (s : State) : (s.setBs b).hunter = s.hunter := rfl
@[simp] theorem State.setBs_deer (b : Bool) (s : State) : (s.setBs b).deer = s.deer := rfl
@[simp] theorem State.setBs_dir (b : Bool) (s : State) : (s.setBs b).dir = s.dir := rfl
@[simp] theorem State.setBs_speed (b : Bool) (s : State) : (s.setBs b).speed = s.speed := rfl
@[simp] theorem State.setBs_deadline (b : Bool) (s : State) : (s.setBs b).deadline = s.deadline := rfl
@[simp] theorem State.setBs_tnow (b : Bool) (s : State) : (s.setBs b).tnow = s.tnow := rfl
@[simp] theorem State.setBs_strip (b : Bool) (s : State) : (s.setBs b).strip = s.strip := rfl
@[simp] theorem State.setBs_armMs (b : Bool) (s : State) : (s.setBs b).armMs = s.armMs := rfl
@[simp] theorem State.setBs_hold (b : Bool) (s : State) : (s.setBs b).hold = s.hold := rfl
@[simp] theorem State.setBs_part (b : Bool) (s : State) : (s.setBs b).part = s.part := rfl
@[simp] theorem State.setBs_line (b : Bool) (s : State) : (s.setBs b).line = s.line := rfl
@[simp] theorem State.setBs_pending (b : Bool) (s : State) : (s.setBs b).pending = s.pending := rfl
@[simp] theorem State.setBs_env (b : Bool) (s : State) : (s.setBs b).env = s.env := rfl
@[simp] theorem State.setBs_par (b : Bool) (s : State) : (s.setBs b).par = s.par := rfl

@[simp] theorem State.setTarm_cfg (b : Bool) (s : State) : (s.setTarm b).cfg = s.cfg := rfl
@[simp] theorem State.setTarm_stat (b : Bool) (s : State) : (s.setTarm b).stat = setBit8 s.stat 4 b := rfl
@[simp] theorem State.setTarm_seq (b : Bool) (s : State) : (s.setTarm b).seq = s.seq := rfl
@[simp] theorem State.setTarm_ast (b : Bool) (s : State) : (s.setTarm b).ast = s.ast := rfl
@[simp] theorem State.setTarm_tcnt (b : Bool) (s : State) : (s.setTarm b).tcnt = s.tcnt := rfl
@[simp] theorem State.setTarm_ca (b : Bool) (s : State) : (s.setTarm b).ca = s.ca := rfl
@[simp] theorem State.setTarm_cb (b : Bool) (s : State) : (s.setTarm b).cb = s.cb := rfl
@[simp] theorem State.setTarm_ghue (b : Bool) (s : State) : (s.setTarm b).ghue = s.ghue := rfl
@[simp] theorem State.setTarm_prng (b : Bool) (s : State) : (s.setTarm b).prng = s.prng := rfl
@[simp] theorem State.setTarm_rv (b : Bool) (s : State) : (s.setTarm b).rv = s.rv := rfl
@[simp] theorem State.setTarm_rgb (b : Bool) (s : State) : (s.setTarm b).rgb = s.rgb := rfl
@[simp] theorem State.setTarm_pxr (b : Bool) (s : State) : (s.setTarm b).pxr = s.pxr := rfl
@[simp] theorem State.setTarm_hunter (b : Bool) (s : State) : (s.setTarm b).hunter = s.hunter := rfl
@[simp] theorem State.setTarm_deer (b : Bool) (s : State) : (s.setTarm b).deer = s.deer := rfl
@[simp] theorem State.setTarm_dir (b : Bool) (s : State) : (s.setTarm b).dir = s.dir := rfl
@[simp] theorem State.setTarm_speed (b : Bool) (s : State) : (s.setTarm b).speed = s.speed := rfl
@[simp] theorem State.setTarm_deadline (b : Bool) (s : State) : (s.setTarm b).deadline = s.deadline := rfl
@[simp] theorem State.setTarm_tnow (b : Bool) (s : State) : (s.setTarm b).tnow = s.tnow := rfl
@[simp] theorem State.setTarm_strip (b : Bool) (s : State) : (s.setTarm b).strip = s.strip := rfl
@[simp] theorem State.setTarm_armMs (b : Bool) (s : State) : (s.setTarm b).armMs = s.armMs := rfl
@[simp] theorem State.setTarm_hold (b : Bool) (s : State) : (s.setTarm b).hold = s.hold := rfl
@[simp] theorem State.setTarm_part (b : Bool) (s : State) : (s.setTarm b).part = s.part := rfl
@[simp] theorem State.setTarm_line (b : Bool) (s : State) : (s.setTarm b).line = s.line := rfl
@[simp] theorem State.setTarm_pending (b : Bool) (s : State) : (s.setTarm b).pending = s.pending := rfl
@[simp] theorem State.setTarm_env (b : Bool) (s : State) : (s.setTarm b).env = s.env := rfl
@[simp] theorem State.setTarm_par (b : Bool) (s : State) : (s.setTarm b).par = s.par := rfl

@[simp] theorem State.setBarm_cfg (b : Bool) (s : State) : (s.setBarm b).cfg = s.cfg := rfl
@[simp] theorem State.setBarm_stat (b : Bool) (s : State) : (s.setBarm b).stat = setBit8 s.stat 5 b := rfl
@[simp] theorem State.setBarm_seq (b : Bool) (s : State) : (s.setBarm b).seq = s.seq := rfl
@[simp] theorem State.setBarm_ast (b : Bool) (s : State) : (s.setBarm b).ast = s.ast := rfl
@[simp] theorem State.setBarm_tcnt (b : Bool) (s : State) : (s.setBarm b).tcnt = s.tcnt := rfl
@[simp] theorem State.setBarm_ca (b : Bool) (s : State) : (s.setBarm b).ca = s.ca := rfl
@[simp] theorem State.setBarm_cb (b : Bool) (s : State) : (s.setBarm b).cb = s.cb := rfl
@[simp] theorem State.setBarm_ghue (b : Bool) (s : State) : (s.setBarm b).ghue = s.ghue := rfl
@[simp] theorem State.setBarm_prng (b : Bool) (s : State) : (s.setBarm b).prng = s.prng := rfl
@[simp] theorem State.setBarm_rv (b : Bool) (s : State) : (s.setBarm b).rv = s.rv := rfl
@[simp] theorem State.setBarm_rgb (b : Bool) (s : State) : (s.setBarm b).rgb = s.rgb := rfl
@[simp] theorem State.setBarm_pxr (b : Bool) (s : State) : (s.setBarm b).pxr = s.pxr := rfl
@[simp] theorem State.setBarm_hunter (b : Bool) (s : State) : (s.setBarm b).hunter = s.hunter := rfl
@[simp] theorem State.setBarm_deer (b : Bool) (s : State) : (s.setBarm b).deer = s.deer := rfl
@[simp] theorem State.setBarm_dir (b : Bool) (s : State) : (s.setBarm b).dir = s.dir := rfl
@[simp] theorem State.setBarm_speed (b : Bool) (s : State) : (s.setBarm b).speed = s.speed := rfl
@[simp] theorem State.setBarm_deadline (b : Bool) (s : State) : (s.setBarm b).deadline = s.deadline := rfl
@[simp] theorem State.setBarm_tnow (b : Bool) (s : State) : (s.setBarm b).tnow = s.tnow := rfl
@[simp] theorem State.setBarm_strip (b : Bool) (s : State) : (s.setBarm b).strip = s.strip := rfl
@[simp] theorem State.setBarm_armMs (b : Bool) (s : State) : (s.setBarm b).armMs = s.armMs := rfl
@[simp] theorem State.setBarm_hold (b : Bool) (s : State) : (s.setBarm b).hold = s.hold := rfl
@[simp] theorem State.setBarm_part (b : Bool) (s : State) : (s.setBarm b).part = s.part := rfl
@[simp] theorem State.setBarm_line (b : Bool) (s : State) : (s.setBarm b).line = s.line := rfl
@[simp] theorem State.setBarm_pending (b : Bool) (s : State) : (s.setBarm b).pending = s.pending := rfl
@[simp] theorem State.setBarm_env (b : Bool) (s : State) : (s.setBarm b).env = s.env := rfl
@[simp] theorem State.setBarm_par (b : Bool) (s : State) : (s.setBarm b).par = s.par := rfl

@[simp] theorem State.setDout_cfg (b : Bool) (s : State) : (s.setDout b).cfg = s.cfg := rfl
@[simp] theorem State.setDout_stat (b : Bool) (s : State) : (s.setDout b).stat = setBit8 s.stat 6 b := rfl
@[simp] theorem State.setDout_seq (b : Bool) (s : State) : (s.setDout b).seq = s.seq := rfl
@[simp] theorem State.setDout_ast (b : Bool) (s : State) : (s.setDout b).ast = s.ast := rfl
@[simp] theorem State.setDout_tcnt (b : Bool) (s : State) : (s.setDout b).tcnt = s.tcnt := rfl
@[simp] theorem State.setDout_ca (b : Bool) (s : State) : (s.setDout b).ca = s.ca := rfl
@[simp] theorem State.setDout_cb (b : Bool) (s : State) : (s.setDout b).cb = s.cb := rfl
@[simp] theorem State.setDout_ghue (b : Bool) (s : State) : (s.setDout b).ghue = s.ghue := rfl
@[simp] theorem State.setDout_prng (b : Bool) (s : State) : (s.setDout b).prng = s.prng := rfl
@[simp] theorem State.setDout_rv (b : Bool) (s : State) : (s.setDout b).rv = s.rv := rfl
@[simp] theorem State.setDout_rgb (b : Bool) (s : State) : (s.setDout b).rgb = s.rgb := rfl
@[simp] theorem State.setDout_pxr (b : Bool) (s : State) : (s.setDout b).pxr = s.pxr := rfl
@[simp] theorem State.setDout_hunter (b : Bool) (s : State) : (s.setDout b).hunter = s.hunter := rfl
@[simp] theorem State.setDout_deer (b : Bool) (s : State) : (s.setDout b).deer = s.deer := rfl
@[simp] theorem State.setDout_dir (b : Bool) (s : State) : (s.setDout b).dir = s.dir := rfl
@[simp] theorem State.setDout_speed (b : Bool) (s : State) : (s.setDout b).speed = s.speed := rfl
@[simp] theorem State.setDout_deadline (b : Bool) (s : State) : (s.setDout b).deadline = s.deadline := rfl
@[simp] theorem State.setDout_tnow (b : Bool) (s : State) : (s.setDout b).tnow = s.tnow := rfl
@[simp] theorem State.setDout_strip (b : Bool) (s : State) : (s.setDout b).strip = s.strip := rfl
@[simp] theorem State.setDout_armMs (b : Bool) (s : State) : (s.setDout b).armMs = s.armMs := rfl
@[simp] theorem State.setDout_hold (b : Bool) (s : State) : (s.setDout b).hold = s.hold := rfl
@[simp] theorem State.setDout_part (b : Bool) (s : State) : (s.setDout b).part = s.part := rfl
@[simp] theorem State.setDout_line (b : Bool) (s : State) : (s.setDout b).line = s.line := rfl
@[simp] theorem State.setDout_pending (b : Bool) (s : State) : (s.setDout b).pending = s.pending := rfl
@[simp] theorem State.setDout_env (b : Bool) (s : State) : (s.setDout b).env = s.env := rfl
@[simp] theorem State.setDout_par (b : Bool) (s : State) : (s.setDout b).par = s.par := rfl

@[simp] theorem State.setOe_cfg (b : Bool) (s : State) : (s.setOe b).cfg = s.cfg := rfl
@[simp] theorem State.setOe_stat (b : Bool) (s : State) : (s.setOe b).stat = setBit8 s.stat 7 b := rfl
@[simp] theorem State.setOe_seq (b : Bool) (s : State) : (s.setOe b).seq = s.seq := rfl
@[simp] theorem State.setOe_ast (b : Bool) (s : State) : (s.setOe b).ast = s.ast := rfl
@[simp] theorem State.setOe_tcnt (b : Bool) (s : State) : (s.setOe b).tcnt = s.tcnt := rfl
@[simp] theorem State.setOe_ca (b : Bool) (s : State) : (s.setOe b).ca = s.ca := rfl
@[simp] theorem State.setOe_cb (b : Bool) (s : State) : (s.setOe b).cb = s.cb := rfl
@[simp] theorem State.setOe_ghue (b : Bool) (s : State) : (s.setOe b).ghue = s.ghue := rfl
@[simp] theorem State.setOe_prng (b : Bool) (s : State) : (s.setOe b).prng = s.prng := rfl
@[simp] theorem State.setOe_rv (b : Bool) (s : State) : (s.setOe b).rv = s.rv := rfl
@[simp] theorem State.setOe_rgb (b : Bool) (s : State) : (s.setOe b).rgb = s.rgb := rfl
@[simp] theorem State.setOe_pxr (b : Bool) (s : State) : (s.setOe b).pxr = s.pxr := rfl
@[simp] theorem State.setOe_hunter (b : Bool) (s : State) : (s.setOe b).hunter = s.hunter := rfl
@[simp] theorem State.setOe_deer (b : Bool) (s : State) : (s.setOe b).deer = s.deer := rfl
@[simp] theorem State.setOe_dir (b : Bool) (s : State) : (s.setOe b).dir = s.dir := rfl
@[simp] theorem State.setOe_speed (b : Bool) (s : State) : (s.setOe b).speed = s.speed := rfl
@[simp] theorem State.setOe_deadline (b : Bool) (s : State) : (s.setOe b).deadline = s.deadline := rfl
@[simp] theorem State.setOe_tnow (b : Bool) (s : State) : (s.setOe b).tnow = s.tnow := rfl
@[simp] theorem State.setOe_strip (b : Bool) (s : State) : (s.setOe b).strip = s.strip := rfl
@[simp] theorem State.setOe_armMs (b : Bool) (s : State) : (s.setOe b).armMs = s.armMs := rfl
@[simp] theorem State.setOe_hold (b : Bool) (s : State) : (s.setOe b).hold = s.hold := rfl
@[simp] theorem State.setOe_part (b : Bool) (s : State) : (s.setOe b).part = s.part := rfl
@[simp] theorem State.setOe_line (b : Bool) (s : State) : (s.setOe b).line = s.line := rfl
@[simp] theorem State.setOe_pending (b : Bool) (s : State) : (s.setOe b).pending = s.pending := rfl
@[simp] theorem State.setOe_env (b : Bool) (s : State) : (s.setOe b).env = s.env := rfl
@[simp] theorem State.setOe_par (b : Bool) (s : State) : (s.setOe b).par = s.par := rfl

/-! ### The strip -/

@[simp] theorem State.putEntry_cfg (a : Nat) (e : Entry) (s : State) : (s.putEntry a e).cfg = s.cfg := rfl
@[simp] theorem State.putEntry_stat (a : Nat) (e : Entry) (s : State) : (s.putEntry a e).stat = s.stat := rfl
@[simp] theorem State.putEntry_seq (a : Nat) (e : Entry) (s : State) : (s.putEntry a e).seq = s.seq := rfl
@[simp] theorem State.putEntry_ast (a : Nat) (e : Entry) (s : State) : (s.putEntry a e).ast = s.ast := rfl
@[simp] theorem State.putEntry_tcnt (a : Nat) (e : Entry) (s : State) : (s.putEntry a e).tcnt = s.tcnt := rfl
@[simp] theorem State.putEntry_ca (a : Nat) (e : Entry) (s : State) : (s.putEntry a e).ca = s.ca := rfl
@[simp] theorem State.putEntry_cb (a : Nat) (e : Entry) (s : State) : (s.putEntry a e).cb = s.cb := rfl
@[simp] theorem State.putEntry_ghue (a : Nat) (e : Entry) (s : State) : (s.putEntry a e).ghue = s.ghue := rfl
@[simp] theorem State.putEntry_prng (a : Nat) (e : Entry) (s : State) : (s.putEntry a e).prng = s.prng := rfl
@[simp] theorem State.putEntry_rv (a : Nat) (e : Entry) (s : State) : (s.putEntry a e).rv = s.rv := rfl
@[simp] theorem State.putEntry_rgb (a : Nat) (e : Entry) (s : State) : (s.putEntry a e).rgb = s.rgb := rfl
@[simp] theorem State.putEntry_pxr (a : Nat) (e : Entry) (s : State) : (s.putEntry a e).pxr = s.pxr := rfl
@[simp] theorem State.putEntry_hunter (a : Nat) (e : Entry) (s : State) : (s.putEntry a e).hunter = s.hunter := rfl
@[simp] theorem State.putEntry_deer (a : Nat) (e : Entry) (s : State) : (s.putEntry a e).deer = s.deer := rfl
@[simp] theorem State.putEntry_dir (a : Nat) (e : Entry) (s : State) : (s.putEntry a e).dir = s.dir := rfl
@[simp] theorem State.putEntry_speed (a : Nat) (e : Entry) (s : State) : (s.putEntry a e).speed = s.speed := rfl
@[simp] theorem State.putEntry_deadline (a : Nat) (e : Entry) (s : State) : (s.putEntry a e).deadline = s.deadline := rfl
@[simp] theorem State.putEntry_tnow (a : Nat) (e : Entry) (s : State) : (s.putEntry a e).tnow = s.tnow := rfl
@[simp] theorem State.putEntry_strip (a : Nat) (e : Entry) (s : State) : (s.putEntry a e).strip = s.strip.write a e := rfl
@[simp] theorem State.putEntry_armMs (a : Nat) (e : Entry) (s : State) : (s.putEntry a e).armMs = s.armMs := rfl
@[simp] theorem State.putEntry_hold (a : Nat) (e : Entry) (s : State) : (s.putEntry a e).hold = s.hold := rfl
@[simp] theorem State.putEntry_part (a : Nat) (e : Entry) (s : State) : (s.putEntry a e).part = s.part := rfl
@[simp] theorem State.putEntry_line (a : Nat) (e : Entry) (s : State) : (s.putEntry a e).line = s.line := rfl
@[simp] theorem State.putEntry_pending (a : Nat) (e : Entry) (s : State) : (s.putEntry a e).pending = s.pending := rfl
@[simp] theorem State.putEntry_env (a : Nat) (e : Entry) (s : State) : (s.putEntry a e).env = s.env := rfl
@[simp] theorem State.putEntry_par (a : Nat) (e : Entry) (s : State) : (s.putEntry a e).par = s.par := rfl

@[simp] theorem State.fadeStrip_cfg (s : State) : (s.fadeStrip).cfg = s.cfg := rfl
@[simp] theorem State.fadeStrip_stat (s : State) : (s.fadeStrip).stat = s.stat := rfl
@[simp] theorem State.fadeStrip_seq (s : State) : (s.fadeStrip).seq = s.seq := rfl
@[simp] theorem State.fadeStrip_ast (s : State) : (s.fadeStrip).ast = s.ast := rfl
@[simp] theorem State.fadeStrip_tcnt (s : State) : (s.fadeStrip).tcnt = s.tcnt := rfl
@[simp] theorem State.fadeStrip_ca (s : State) : (s.fadeStrip).ca = s.ca := rfl
@[simp] theorem State.fadeStrip_cb (s : State) : (s.fadeStrip).cb = s.cb := rfl
@[simp] theorem State.fadeStrip_ghue (s : State) : (s.fadeStrip).ghue = s.ghue := rfl
@[simp] theorem State.fadeStrip_prng (s : State) : (s.fadeStrip).prng = s.prng := rfl
@[simp] theorem State.fadeStrip_rv (s : State) : (s.fadeStrip).rv = s.rv := rfl
@[simp] theorem State.fadeStrip_rgb (s : State) : (s.fadeStrip).rgb = s.rgb := rfl
@[simp] theorem State.fadeStrip_pxr (s : State) : (s.fadeStrip).pxr = s.pxr := rfl
@[simp] theorem State.fadeStrip_hunter (s : State) : (s.fadeStrip).hunter = s.hunter := rfl
@[simp] theorem State.fadeStrip_deer (s : State) : (s.fadeStrip).deer = s.deer := rfl
@[simp] theorem State.fadeStrip_dir (s : State) : (s.fadeStrip).dir = s.dir := rfl
@[simp] theorem State.fadeStrip_speed (s : State) : (s.fadeStrip).speed = s.speed := rfl
@[simp] theorem State.fadeStrip_deadline (s : State) : (s.fadeStrip).deadline = s.deadline := rfl
@[simp] theorem State.fadeStrip_tnow (s : State) : (s.fadeStrip).tnow = s.tnow := rfl
@[simp] theorem State.fadeStrip_strip (s : State) : (s.fadeStrip).strip = s.strip.mapFirst s.par.n fun _ e => dimEntry e := rfl
@[simp] theorem State.fadeStrip_armMs (s : State) : (s.fadeStrip).armMs = s.armMs := rfl
@[simp] theorem State.fadeStrip_hold (s : State) : (s.fadeStrip).hold = s.hold := rfl
@[simp] theorem State.fadeStrip_part (s : State) : (s.fadeStrip).part = s.part := rfl
@[simp] theorem State.fadeStrip_line (s : State) : (s.fadeStrip).line = s.line := rfl
@[simp] theorem State.fadeStrip_pending (s : State) : (s.fadeStrip).pending = s.pending := rfl
@[simp] theorem State.fadeStrip_env (s : State) : (s.fadeStrip).env = s.env := rfl
@[simp] theorem State.fadeStrip_par (s : State) : (s.fadeStrip).par = s.par := rfl

@[simp] theorem State.clearStrip_cfg (s : State) : (s.clearStrip).cfg = s.cfg := rfl
@[simp] theorem State.clearStrip_stat (s : State) : (s.clearStrip).stat = s.stat := rfl
@[simp] theorem State.clearStrip_seq (s : State) : (s.clearStrip).seq = s.seq := rfl
@[simp] theorem State.clearStrip_ast (s : State) : (s.clearStrip).ast = s.ast := rfl
@[simp] theorem State.clearStrip_tcnt (s : State) : (s.clearStrip).tcnt = s.tcnt := rfl
@[simp] theorem State.clearStrip_ca (s : State) : (s.clearStrip).ca = s.ca := rfl
@[simp] theorem State.clearStrip_cb (s : State) : (s.clearStrip).cb = s.cb := rfl
@[simp] theorem State.clearStrip_ghue (s : State) : (s.clearStrip).ghue = s.ghue := rfl
@[simp] theorem State.clearStrip_prng (s : State) : (s.clearStrip).prng = s.prng := rfl
@[simp] theorem State.clearStrip_rv (s : State) : (s.clearStrip).rv = s.rv := rfl
@[simp] theorem State.clearStrip_rgb (s : State) : (s.clearStrip).rgb = s.rgb := rfl
@[simp] theorem State.clearStrip_pxr (s : State) : (s.clearStrip).pxr = s.pxr := rfl
@[simp] theorem State.clearStrip_hunter (s : State) : (s.clearStrip).hunter = s.hunter := rfl
@[simp] theorem State.clearStrip_deer (s : State) : (s.clearStrip).deer = s.deer := rfl
@[simp] theorem State.clearStrip_dir (s : State) : (s.clearStrip).dir = s.dir := rfl
@[simp] theorem State.clearStrip_speed (s : State) : (s.clearStrip).speed = s.speed := rfl
@[simp] theorem State.clearStrip_deadline (s : State) : (s.clearStrip).deadline = s.deadline := rfl
@[simp] theorem State.clearStrip_tnow (s : State) : (s.clearStrip).tnow = s.tnow := rfl
@[simp] theorem State.clearStrip_strip (s : State) : (s.clearStrip).strip = s.strip.mapFirst s.par.n fun _ e => withLevel 0 e := rfl
@[simp] theorem State.clearStrip_armMs (s : State) : (s.clearStrip).armMs = s.armMs := rfl
@[simp] theorem State.clearStrip_hold (s : State) : (s.clearStrip).hold = s.hold := rfl
@[simp] theorem State.clearStrip_part (s : State) : (s.clearStrip).part = s.part := rfl
@[simp] theorem State.clearStrip_line (s : State) : (s.clearStrip).line = s.line := rfl
@[simp] theorem State.clearStrip_pending (s : State) : (s.clearStrip).pending = s.pending := rfl
@[simp] theorem State.clearStrip_env (s : State) : (s.clearStrip).env = s.env := rfl
@[simp] theorem State.clearStrip_par (s : State) : (s.clearStrip).par = s.par := rfl

@[simp] theorem State.rotateStrip_cfg (s : State) : (s.rotateStrip).cfg = s.cfg := rfl
@[simp] theorem State.rotateStrip_stat (s : State) : (s.rotateStrip).stat = s.stat := rfl
@[simp] theorem State.rotateStrip_seq (s : State) : (s.rotateStrip).seq = s.seq := rfl
@[simp] theorem State.rotateStrip_ast (s : State) : (s.rotateStrip).ast = s.ast := rfl
@[simp] theorem State.rotateStrip_tcnt (s : State) : (s.rotateStrip).tcnt = s.tcnt := rfl
@[simp] theorem State.rotateStrip_ca (s : State) : (s.rotateStrip).ca = s.ca := rfl
@[simp] theorem State.rotateStrip_cb (s : State) : (s.rotateStrip).cb = s.cb := rfl
@[simp] theorem State.rotateStrip_ghue (s : State) : (s.rotateStrip).ghue = s.ghue := rfl
@[simp] theorem State.rotateStrip_prng (s : State) : (s.rotateStrip).prng = s.prng := rfl
@[simp] theorem State.rotateStrip_rv (s : State) : (s.rotateStrip).rv = s.rv := rfl
@[simp] theorem State.rotateStrip_rgb (s : State) : (s.rotateStrip).rgb = s.rgb := rfl
@[simp] theorem State.rotateStrip_pxr (s : State) : (s.rotateStrip).pxr = s.pxr := rfl
@[simp] theorem State.rotateStrip_hunter (s : State) : (s.rotateStrip).hunter = s.hunter := rfl
@[simp] theorem State.rotateStrip_deer (s : State) : (s.rotateStrip).deer = s.deer := rfl
@[simp] theorem State.rotateStrip_dir (s : State) : (s.rotateStrip).dir = s.dir := rfl
@[simp] theorem State.rotateStrip_speed (s : State) : (s.rotateStrip).speed = s.speed := rfl
@[simp] theorem State.rotateStrip_deadline (s : State) : (s.rotateStrip).deadline = s.deadline := rfl
@[simp] theorem State.rotateStrip_tnow (s : State) : (s.rotateStrip).tnow = s.tnow := rfl
@[simp] theorem State.rotateStrip_strip (s : State) : (s.rotateStrip).strip = (s.strip.shiftUp s.par.n).write 0 (s.strip.read (s.par.n - 1)) := rfl
@[simp] theorem State.rotateStrip_armMs (s : State) : (s.rotateStrip).armMs = s.armMs := rfl
@[simp] theorem State.rotateStrip_hold (s : State) : (s.rotateStrip).hold = s.hold := rfl
@[simp] theorem State.rotateStrip_part (s : State) : (s.rotateStrip).part = s.part := rfl
@[simp] theorem State.rotateStrip_line (s : State) : (s.rotateStrip).line = s.line := rfl
@[simp] theorem State.rotateStrip_pending (s : State) : (s.rotateStrip).pending = s.pending := rfl
@[simp] theorem State.rotateStrip_env (s : State) : (s.rotateStrip).env = s.env := rfl
@[simp] theorem State.rotateStrip_par (s : State) : (s.rotateStrip).par = s.par := rfl

/-! ### The wire -/

@[simp] theorem State.pulse_cfg (b tight : Bool) (s : State) : (s.pulse b tight).cfg = s.cfg := rfl
@[simp] theorem State.pulse_stat (b tight : Bool) (s : State) : (s.pulse b tight).stat = setBit8 (setBit8 s.stat 6 true) 6 false := rfl
@[simp] theorem State.pulse_seq (b tight : Bool) (s : State) : (s.pulse b tight).seq = s.seq := rfl
@[simp] theorem State.pulse_ast (b tight : Bool) (s : State) : (s.pulse b tight).ast = s.ast := rfl
@[simp] theorem State.pulse_tcnt (b tight : Bool) (s : State) : (s.pulse b tight).tcnt = s.tcnt := rfl
@[simp] theorem State.pulse_ca (b tight : Bool) (s : State) : (s.pulse b tight).ca = s.ca := rfl
@[simp] theorem State.pulse_cb (b tight : Bool) (s : State) : (s.pulse b tight).cb = s.cb := rfl
@[simp] theorem State.pulse_ghue (b tight : Bool) (s : State) : (s.pulse b tight).ghue = s.ghue := rfl
@[simp] theorem State.pulse_prng (b tight : Bool) (s : State) : (s.pulse b tight).prng = s.prng := rfl
@[simp] theorem State.pulse_rv (b tight : Bool) (s : State) : (s.pulse b tight).rv = s.rv := rfl
@[simp] theorem State.pulse_rgb (b tight : Bool) (s : State) : (s.pulse b tight).rgb = s.rgb := rfl
@[simp] theorem State.pulse_pxr (b tight : Bool) (s : State) : (s.pulse b tight).pxr = s.pxr := rfl
@[simp] theorem State.pulse_hunter (b tight : Bool) (s : State) : (s.pulse b tight).hunter = s.hunter := rfl
@[simp] theorem State.pulse_deer (b tight : Bool) (s : State) : (s.pulse b tight).deer = s.deer := rfl
@[simp] theorem State.pulse_dir (b tight : Bool) (s : State) : (s.pulse b tight).dir = s.dir := rfl
@[simp] theorem State.pulse_speed (b tight : Bool) (s : State) : (s.pulse b tight).speed = s.speed := rfl
@[simp] theorem State.pulse_deadline (b tight : Bool) (s : State) : (s.pulse b tight).deadline = s.deadline := rfl
@[simp] theorem State.pulse_tnow (b tight : Bool) (s : State) : (s.pulse b tight).tnow = s.tnow := rfl
@[simp] theorem State.pulse_strip (b tight : Bool) (s : State) : (s.pulse b tight).strip = s.strip := rfl
@[simp] theorem State.pulse_armMs (b tight : Bool) (s : State) : (s.pulse b tight).armMs = s.armMs := rfl
@[simp] theorem State.pulse_hold (b tight : Bool) (s : State) : (s.pulse b tight).hold = s.hold := rfl
@[simp] theorem State.pulse_part (b tight : Bool) (s : State) : (s.pulse b tight).part = s.part := rfl
@[simp] theorem State.pulse_line (b tight : Bool) (s : State) : (s.pulse b tight).line = s.line.pulse s.oe s.par.tWindowNs b tight := rfl
@[simp] theorem State.pulse_pending (b tight : Bool) (s : State) : (s.pulse b tight).pending = s.pending := rfl
@[simp] theorem State.pulse_env (b tight : Bool) (s : State) : (s.pulse b tight).env = s.env := rfl
@[simp] theorem State.pulse_par (b tight : Bool) (s : State) : (s.pulse b tight).par = s.par := rfl

@[simp] theorem State.elapse_cfg (m : Nat) (s : State) : (s.elapse m).cfg = s.cfg := rfl
@[simp] theorem State.elapse_stat (m : Nat) (s : State) : (s.elapse m).stat = s.stat := rfl
@[simp] theorem State.elapse_seq (m : Nat) (s : State) : (s.elapse m).seq = s.seq := rfl
@[simp] theorem State.elapse_ast (m : Nat) (s : State) : (s.elapse m).ast = s.ast := rfl
@[simp] theorem State.elapse_tcnt (m : Nat) (s : State) : (s.elapse m).tcnt = s.tcnt := rfl
@[simp] theorem State.elapse_ca (m : Nat) (s : State) : (s.elapse m).ca = s.ca := rfl
@[simp] theorem State.elapse_cb (m : Nat) (s : State) : (s.elapse m).cb = s.cb := rfl
@[simp] theorem State.elapse_ghue (m : Nat) (s : State) : (s.elapse m).ghue = s.ghue := rfl
@[simp] theorem State.elapse_prng (m : Nat) (s : State) : (s.elapse m).prng = s.prng := rfl
@[simp] theorem State.elapse_rv (m : Nat) (s : State) : (s.elapse m).rv = s.rv := rfl
@[simp] theorem State.elapse_rgb (m : Nat) (s : State) : (s.elapse m).rgb = s.rgb := rfl
@[simp] theorem State.elapse_pxr (m : Nat) (s : State) : (s.elapse m).pxr = s.pxr := rfl
@[simp] theorem State.elapse_hunter (m : Nat) (s : State) : (s.elapse m).hunter = s.hunter := rfl
@[simp] theorem State.elapse_deer (m : Nat) (s : State) : (s.elapse m).deer = s.deer := rfl
@[simp] theorem State.elapse_dir (m : Nat) (s : State) : (s.elapse m).dir = s.dir := rfl
@[simp] theorem State.elapse_speed (m : Nat) (s : State) : (s.elapse m).speed = s.speed := rfl
@[simp] theorem State.elapse_deadline (m : Nat) (s : State) : (s.elapse m).deadline = s.deadline := rfl
@[simp] theorem State.elapse_tnow (m : Nat) (s : State) : (s.elapse m).tnow = s.tnow := rfl
@[simp] theorem State.elapse_strip (m : Nat) (s : State) : (s.elapse m).strip = s.strip := rfl
@[simp] theorem State.elapse_armMs (m : Nat) (s : State) : (s.elapse m).armMs = s.armMs := rfl
@[simp] theorem State.elapse_hold (m : Nat) (s : State) : (s.elapse m).hold = s.hold := rfl
@[simp] theorem State.elapse_part (m : Nat) (s : State) : (s.elapse m).part = s.part := rfl
@[simp] theorem State.elapse_line (m : Nat) (s : State) : (s.elapse m).line = s.line.elapse s.oe m := rfl
@[simp] theorem State.elapse_pending (m : Nat) (s : State) : (s.elapse m).pending = s.pending := rfl
@[simp] theorem State.elapse_env (m : Nat) (s : State) : (s.elapse m).env = s.env := rfl
@[simp] theorem State.elapse_par (m : Nat) (s : State) : (s.elapse m).par = s.par := rfl

@[simp] theorem State.latchGap_cfg (s : State) : (s.latchGap).cfg = s.cfg := rfl
@[simp] theorem State.latchGap_stat (s : State) : (s.latchGap).stat = s.stat := rfl
@[simp] theorem State.latchGap_seq (s : State) : (s.latchGap).seq = s.seq := rfl
@[simp] theorem State.latchGap_ast (s : State) : (s.latchGap).ast = s.ast := rfl
@[simp] theorem State.latchGap_tcnt (s : State) : (s.latchGap).tcnt = s.tcnt := rfl
@[simp] theorem State.latchGap_ca (s : State) : (s.latchGap).ca = s.ca := rfl
@[simp] theorem State.latchGap_cb (s : State) : (s.latchGap).cb = s.cb := rfl
@[simp] theorem State.latchGap_ghue (s : State) : (s.latchGap).ghue = s.ghue := rfl
@[simp] theorem State.latchGap_prng (s : State) : (s.latchGap).prng = s.prng := rfl
@[simp] theorem State.latchGap_rv (s : State) : (s.latchGap).rv = s.rv := rfl
@[simp] theorem State.latchGap_rgb (s : State) : (s.latchGap).rgb = s.rgb := rfl
@[simp] theorem State.latchGap_pxr (s : State) : (s.latchGap).pxr = s.pxr := rfl
@[simp] theorem State.latchGap_hunter (s : State) : (s.latchGap).hunter = s.hunter := rfl
@[simp] theorem State.latchGap_deer (s : State) : (s.latchGap).deer = s.deer := rfl
@[simp] theorem State.latchGap_dir (s : State) : (s.latchGap).dir = s.dir := rfl
@[simp] theorem State.latchGap_speed (s : State) : (s.latchGap).speed = s.speed := rfl
@[simp] theorem State.latchGap_deadline (s : State) : (s.latchGap).deadline = s.deadline := rfl
@[simp] theorem State.latchGap_tnow (s : State) : (s.latchGap).tnow = s.tnow := rfl
@[simp] theorem State.latchGap_strip (s : State) : (s.latchGap).strip = s.strip := rfl
@[simp] theorem State.latchGap_armMs (s : State) : (s.latchGap).armMs = s.armMs := rfl
@[simp] theorem State.latchGap_hold (s : State) : (s.latchGap).hold = s.hold := rfl
@[simp] theorem State.latchGap_part (s : State) : (s.latchGap).part = s.part := rfl
@[simp] theorem State.latchGap_line (s : State) : (s.latchGap).line = (s.line.elapse s.oe s.par.tLatchNs).mark .latch := rfl
@[simp] theorem State.latchGap_pending (s : State) : (s.latchGap).pending = s.pending := rfl
@[simp] theorem State.latchGap_env (s : State) : (s.latchGap).env = s.env := rfl
@[simp] theorem State.latchGap_par (s : State) : (s.latchGap).par = s.par := rfl

@[simp] theorem State.leaveCritical_cfg (old : Bool) (s : State) : (s.leaveCritical old).cfg = s.cfg := by cases old <;> rfl
@[simp] theorem State.leaveCritical_seq (old : Bool) (s : State) : (s.leaveCritical old).seq = s.seq := by cases old <;> rfl
@[simp] theorem State.leaveCritical_ast (old : Bool) (s : State) : (s.leaveCritical old).ast = s.ast := by cases old <;> rfl
@[simp] theorem State.leaveCritical_tcnt (old : Bool) (s : State) : (s.leaveCritical old).tcnt = s.tcnt := by cases old <;> rfl
@[simp] theorem State.leaveCritical_ca (old : Bool) (s : State) : (s.leaveCritical old).ca = s.ca := by cases old <;> rfl
@[simp] theorem State.leaveCritical_cb (old : Bool) (s : State) : (s.leaveCritical old).cb = s.cb := by cases old <;> rfl
@[simp] theorem State.leaveCritical_ghue (old : Bool) (s : State) : (s.leaveCritical old).ghue = s.ghue := by cases old <;> rfl
@[simp] theorem State.leaveCritical_prng (old : Bool) (s : State) : (s.leaveCritical old).prng = s.prng := by cases old <;> rfl
@[simp] theorem State.leaveCritical_rv (old : Bool) (s : State) : (s.leaveCritical old).rv = s.rv := by cases old <;> rfl
@[simp] theorem State.leaveCritical_rgb (old : Bool) (s : State) : (s.leaveCritical old).rgb = s.rgb := by cases old <;> rfl
@[simp] theorem State.leaveCritical_pxr (old : Bool) (s : State) : (s.leaveCritical old).pxr = s.pxr := by cases old <;> rfl
@[simp] theorem State.leaveCritical_hunter (old : Bool) (s : State) : (s.leaveCritical old).hunter = s.hunter := by cases old <;> rfl
@[simp] theorem State.leaveCritical_deer (old : Bool) (s : State) : (s.leaveCritical old).deer = s.deer := by cases old <;> rfl
@[simp] theorem State.leaveCritical_dir (old : Bool) (s : State) : (s.leaveCritical old).dir = s.dir := by cases old <;> rfl
@[simp] theorem State.leaveCritical_speed (old : Bool) (s : State) : (s.leaveCritical old).speed = s.speed := by cases old <;> rfl
@[simp] theorem State.leaveCritical_deadline (old : Bool) (s : State) : (s.leaveCritical old).deadline = s.deadline := by cases old <;> rfl
@[simp] theorem State.leaveCritical_tnow (old : Bool) (s : State) : (s.leaveCritical old).tnow = s.tnow := by cases old <;> rfl
@[simp] theorem State.leaveCritical_strip (old : Bool) (s : State) : (s.leaveCritical old).strip = s.strip := by cases old <;> rfl
@[simp] theorem State.leaveCritical_armMs (old : Bool) (s : State) : (s.leaveCritical old).armMs = s.armMs := by cases old <;> rfl
@[simp] theorem State.leaveCritical_hold (old : Bool) (s : State) : (s.leaveCritical old).hold = s.hold := by cases old <;> rfl
@[simp] theorem State.leaveCritical_part (old : Bool) (s : State) : (s.leaveCritical old).part = s.part := by cases old <;> rfl
@[simp] theorem State.leaveCritical_pending (old : Bool) (s : State) : (s.leaveCritical old).pending = s.pending := by cases old <;> rfl
@[simp] theorem State.leaveCritical_env (old : Bool) (s : State) : (s.leaveCritical old).env = s.env := by cases old <;> rfl
@[simp] theorem State.leaveCritical_par (old : Bool) (s : State) : (s.leaveCritical old).par = s.par := by cases old <;> rfl

/-! ### Samples, waits, events -/

@[simp] theorem State.sampleButton_cfg (s : State) : (s.sampleButton).cfg = s.cfg := rfl
@[simp] theorem State.sampleButton_stat (s : State) : (s.sampleButton).stat = setBit8 s.stat 3 (!s.env.btnN) := rfl
@[simp] theorem State.sampleButton_seq (s : State) : (s.sampleButton).seq = s.seq := rfl
@[simp] theorem State.sampleButton_ast (s : State) : (s.sampleButton).ast = s.ast := rfl
@[simp] theorem State.sampleButton_tcnt (s : State) : (s.sampleButton).tcnt = s.tcnt := rfl
@[simp] theorem State.sampleButton_ca (s : State) : (s.sampleButton).ca = s.ca := rfl
@[simp] theorem State.sampleButton_cb (s : State) : (s.sampleButton).cb = s.cb := rfl
@[simp] theorem State.sampleButton_ghue (s : State) : (s.sampleButton).ghue = s.ghue := rfl
@[simp] theorem State.sampleButton_prng (s : State) : (s.sampleButton).prng = s.prng := rfl
@[simp] theorem State.sampleButton_rv (s : State) : (s.sampleButton).rv = s.rv := rfl
@[simp] theorem State.sampleButton_rgb (s : State) : (s.sampleButton).rgb = s.rgb := rfl
@[simp] theorem State.sampleButton_pxr (s : State) : (s.sampleButton).pxr = s.pxr := rfl
@[simp] theorem State.sampleButton_hunter (s : State) : (s.sampleButton).hunter = s.hunter := rfl
@[simp] theorem State.sampleButton_deer (s : State) : (s.sampleButton).deer = s.deer := rfl
@[simp] theorem State.sampleButton_dir (s : State) : (s.sampleButton).dir = s.dir := rfl
@[simp] theorem State.sampleButton_speed (s : State) : (s.sampleButton).speed = s.speed := rfl
@[simp] theorem State.sampleButton_deadline (s : State) : (s.sampleButton).deadline = s.deadline := rfl
@[simp] theorem State.sampleButton_tnow (s : State) : (s.sampleButton).tnow = s.tnow := rfl
@[simp] theorem State.sampleButton_strip (s : State) : (s.sampleButton).strip = s.strip := rfl
@[simp] theorem State.sampleButton_armMs (s : State) : (s.sampleButton).armMs = s.armMs := rfl
@[simp] theorem State.sampleButton_hold (s : State) : (s.sampleButton).hold = s.hold := rfl
@[simp] theorem State.sampleButton_part (s : State) : (s.sampleButton).part = s.part := rfl
@[simp] theorem State.sampleButton_line (s : State) : (s.sampleButton).line = s.line := rfl
@[simp] theorem State.sampleButton_pending (s : State) : (s.sampleButton).pending = s.pending := rfl
@[simp] theorem State.sampleButton_env (s : State) : (s.sampleButton).env = s.env := rfl
@[simp] theorem State.sampleButton_par (s : State) : (s.sampleButton).par = s.par := rfl

@[simp] theorem State.sampleCounter_cfg (s : State) : (s.sampleCounter).cfg = s.cfg := rfl
@[simp] theorem State.sampleCounter_stat (s : State) : (s.sampleCounter).stat = s.stat := rfl
@[simp] theorem State.sampleCounter_seq (s : State) : (s.sampleCounter).seq = s.seq := rfl
@[simp] theorem State.sampleCounter_ast (s : State) : (s.sampleCounter).ast = s.ast := rfl
@[simp] theorem State.sampleCounter_tcnt (s : State) : (s.sampleCounter).tcnt = s.tcnt := rfl
@[simp] theorem State.sampleCounter_ca (s : State) : (s.sampleCounter).ca = s.ca := rfl
@[simp] theorem State.sampleCounter_cb (s : State) : (s.sampleCounter).cb = s.cb := rfl
@[simp] theorem State.sampleCounter_ghue (s : State) : (s.sampleCounter).ghue = s.ghue := rfl
@[simp] theorem State.sampleCounter_prng (s : State) : (s.sampleCounter).prng = s.prng := rfl
@[simp] theorem State.sampleCounter_rv (s : State) : (s.sampleCounter).rv = s.rv := rfl
@[simp] theorem State.sampleCounter_rgb (s : State) : (s.sampleCounter).rgb = s.rgb := rfl
@[simp] theorem State.sampleCounter_pxr (s : State) : (s.sampleCounter).pxr = s.pxr := rfl
@[simp] theorem State.sampleCounter_hunter (s : State) : (s.sampleCounter).hunter = s.hunter := rfl
@[simp] theorem State.sampleCounter_deer (s : State) : (s.sampleCounter).deer = s.deer := rfl
@[simp] theorem State.sampleCounter_dir (s : State) : (s.sampleCounter).dir = s.dir := rfl
@[simp] theorem State.sampleCounter_speed (s : State) : (s.sampleCounter).speed = s.speed := rfl
@[simp] theorem State.sampleCounter_deadline (s : State) : (s.sampleCounter).deadline = s.deadline := rfl
@[simp] theorem State.sampleCounter_tnow (s : State) : (s.sampleCounter).tnow = s.env.cnt := rfl
@[simp] theorem State.sampleCounter_strip (s : State) : (s.sampleCounter).strip = s.strip := rfl
@[simp] theorem State.sampleCounter_armMs (s : State) : (s.sampleCounter).armMs = s.armMs := rfl
@[simp] theorem State.sampleCounter_hold (s : State) : (s.sampleCounter).hold = s.hold := rfl
@[simp] theorem State.sampleCounter_part (s : State) : (s.sampleCounter).part = s.part := rfl
@[simp] theorem State.sampleCounter_line (s : State) : (s.sampleCounter).line = s.line := rfl
@[simp] theorem State.sampleCounter_pending (s : State) : (s.sampleCounter).pending = s.pending := rfl
@[simp] theorem State.sampleCounter_env (s : State) : (s.sampleCounter).env = s.env := rfl
@[simp] theorem State.sampleCounter_par (s : State) : (s.sampleCounter).par = s.par := rfl

@[simp] theorem State.setHold_cfg (h : Hold) (s : State) : (s.setHold h).cfg = s.cfg := rfl
@[simp] theorem State.setHold_stat (h : Hold) (s : State) : (s.setHold h).stat = s.stat := rfl
@[simp] theorem State.setHold_seq (h : Hold) (s : State) : (s.setHold h).seq = s.seq := rfl
@[simp] theorem State.setHold_ast (h : Hold) (s : State) : (s.setHold h).ast = s.ast := rfl
@[simp] theorem State.setHold_tcnt (h : Hold) (s : State) : (s.setHold h).tcnt = s.tcnt := rfl
@[simp] theorem State.setHold_ca (h : Hold) (s : State) : (s.setHold h).ca = s.ca := rfl
@[simp] theorem State.setHold_cb (h : Hold) (s : State) : (s.setHold h).cb = s.cb := rfl
@[simp] theorem State.setHold_ghue (h : Hold) (s : State) : (s.setHold h).ghue = s.ghue := rfl
@[simp] theorem State.setHold_prng (h : Hold) (s : State) : (s.setHold h).prng = s.prng := rfl
@[simp] theorem State.setHold_rv (h : Hold) (s : State) : (s.setHold h).rv = s.rv := rfl
@[simp] theorem State.setHold_rgb (h : Hold) (s : State) : (s.setHold h).rgb = s.rgb := rfl
@[simp] theorem State.setHold_pxr (h : Hold) (s : State) : (s.setHold h).pxr = s.pxr := rfl
@[simp] theorem State.setHold_hunter (h : Hold) (s : State) : (s.setHold h).hunter = s.hunter := rfl
@[simp] theorem State.setHold_deer (h : Hold) (s : State) : (s.setHold h).deer = s.deer := rfl
@[simp] theorem State.setHold_dir (h : Hold) (s : State) : (s.setHold h).dir = s.dir := rfl
@[simp] theorem State.setHold_speed (h : Hold) (s : State) : (s.setHold h).speed = s.speed := rfl
@[simp] theorem State.setHold_deadline (h : Hold) (s : State) : (s.setHold h).deadline = s.deadline := rfl
@[simp] theorem State.setHold_tnow (h : Hold) (s : State) : (s.setHold h).tnow = s.tnow := rfl
@[simp] theorem State.setHold_strip (h : Hold) (s : State) : (s.setHold h).strip = s.strip := rfl
@[simp] theorem State.setHold_armMs (h : Hold) (s : State) : (s.setHold h).armMs = s.armMs := rfl
@[simp] theorem State.setHold_hold (h : Hold) (s : State) : (s.setHold h).hold = h := rfl
@[simp] theorem State.setHold_part (h : Hold) (s : State) : (s.setHold h).part = s.part := rfl
@[simp] theorem State.setHold_line (h : Hold) (s : State) : (s.setHold h).line = s.line := rfl
@[simp] theorem State.setHold_pending (h : Hold) (s : State) : (s.setHold h).pending = s.pending := rfl
@[simp] theorem State.setHold_env (h : Hold) (s : State) : (s.setHold h).env = s.env := rfl
@[simp] theorem State.setHold_par (h : Hold) (s : State) : (s.setHold h).par = s.par := rfl

@[simp] theorem State.takeWake_cfg (s : State) : (s.takeWake).cfg = s.cfg := rfl
@[simp] theorem State.takeWake_stat (s : State) : (s.takeWake).stat = setBit8 s.stat 0 true := rfl
@[simp] theorem State.takeWake_seq (s : State) : (s.takeWake).seq = s.seq := rfl
@[simp] theorem State.takeWake_ast (s : State) : (s.takeWake).ast = s.ast := rfl
@[simp] theorem State.takeWake_tcnt (s : State) : (s.takeWake).tcnt = s.tcnt := rfl
@[simp] theorem State.takeWake_ca (s : State) : (s.takeWake).ca = s.ca := rfl
@[simp] theorem State.takeWake_cb (s : State) : (s.takeWake).cb = s.cb := rfl
@[simp] theorem State.takeWake_ghue (s : State) : (s.takeWake).ghue = s.ghue := rfl
@[simp] theorem State.takeWake_prng (s : State) : (s.takeWake).prng = s.prng := rfl
@[simp] theorem State.takeWake_rv (s : State) : (s.takeWake).rv = s.rv := rfl
@[simp] theorem State.takeWake_rgb (s : State) : (s.takeWake).rgb = s.rgb := rfl
@[simp] theorem State.takeWake_pxr (s : State) : (s.takeWake).pxr = s.pxr := rfl
@[simp] theorem State.takeWake_hunter (s : State) : (s.takeWake).hunter = s.hunter := rfl
@[simp] theorem State.takeWake_deer (s : State) : (s.takeWake).deer = s.deer := rfl
@[simp] theorem State.takeWake_dir (s : State) : (s.takeWake).dir = s.dir := rfl
@[simp] theorem State.takeWake_speed (s : State) : (s.takeWake).speed = s.speed := rfl
@[simp] theorem State.takeWake_deadline (s : State) : (s.takeWake).deadline = s.deadline := rfl
@[simp] theorem State.takeWake_tnow (s : State) : (s.takeWake).tnow = s.tnow := rfl
@[simp] theorem State.takeWake_strip (s : State) : (s.takeWake).strip = s.strip := rfl
@[simp] theorem State.takeWake_armMs (s : State) : (s.takeWake).armMs = s.armMs := rfl
@[simp] theorem State.takeWake_hold (s : State) : (s.takeWake).hold = s.hold := rfl
@[simp] theorem State.takeWake_part (s : State) : (s.takeWake).part = s.part := rfl
@[simp] theorem State.takeWake_line (s : State) : (s.takeWake).line = s.line := rfl
@[simp] theorem State.takeWake_pending (s : State) : (s.takeWake).pending = s.pending := rfl
@[simp] theorem State.takeWake_env (s : State) : (s.takeWake).env = s.env := rfl
@[simp] theorem State.takeWake_par (s : State) : (s.takeWake).par = s.par := rfl

/-! ### The engines -/

@[simp] theorem State.advanceAst_cfg (s : State) : (s.advanceAst).cfg = s.cfg := rfl
@[simp] theorem State.advanceAst_stat (s : State) : (s.advanceAst).stat = s.stat := rfl
@[simp] theorem State.advanceAst_seq (s : State) : (s.advanceAst).seq = s.seq := rfl
@[simp] theorem State.advanceAst_ast (s : State) : (s.advanceAst).ast = s.ast + 1 := rfl
@[simp] theorem State.advanceAst_tcnt (s : State) : (s.advanceAst).tcnt = 0 := rfl
@[simp] theorem State.advanceAst_ca (s : State) : (s.advanceAst).ca = s.ca := rfl
@[simp] theorem State.advanceAst_cb (s : State) : (s.advanceAst).cb = s.cb := rfl
@[simp] theorem State.advanceAst_ghue (s : State) : (s.advanceAst).ghue = s.ghue := rfl
@[simp] theorem State.advanceAst_prng (s : State) : (s.advanceAst).prng = s.prng := rfl
@[simp] theorem State.advanceAst_rv (s : State) : (s.advanceAst).rv = s.rv := rfl
@[simp] theorem State.advanceAst_rgb (s : State) : (s.advanceAst).rgb = s.rgb := rfl
@[simp] theorem State.advanceAst_pxr (s : State) : (s.advanceAst).pxr = s.pxr := rfl
@[simp] theorem State.advanceAst_hunter (s : State) : (s.advanceAst).hunter = s.hunter := rfl
@[simp] theorem State.advanceAst_deer (s : State) : (s.advanceAst).deer = s.deer := rfl
@[simp] theorem State.advanceAst_dir (s : State) : (s.advanceAst).dir = s.dir := rfl
@[simp] theorem State.advanceAst_speed (s : State) : (s.advanceAst).speed = s.speed := rfl
@[simp] theorem State.advanceAst_deadline (s : State) : (s.advanceAst).deadline = s.deadline := rfl
@[simp] theorem State.advanceAst_tnow (s : State) : (s.advanceAst).tnow = s.tnow := rfl
@[simp] theorem State.advanceAst_strip (s : State) : (s.advanceAst).strip = s.strip := rfl
@[simp] theorem State.advanceAst_armMs (s : State) : (s.advanceAst).armMs = s.armMs := rfl
@[simp] theorem State.advanceAst_hold (s : State) : (s.advanceAst).hold = s.hold := rfl
@[simp] theorem State.advanceAst_part (s : State) : (s.advanceAst).part = s.part := rfl
@[simp] theorem State.advanceAst_line (s : State) : (s.advanceAst).line = s.line := rfl
@[simp] theorem State.advanceAst_pending (s : State) : (s.advanceAst).pending = s.pending := rfl
@[simp] theorem State.advanceAst_env (s : State) : (s.advanceAst).env = s.env := rfl
@[simp] theorem State.advanceAst_par (s : State) : (s.advanceAst).par = s.par := rfl

@[simp] theorem State.stepComets_cfg (s : State) : (s.stepComets).cfg = s.cfg := rfl
@[simp] theorem State.stepComets_stat (s : State) : (s.stepComets).stat = s.stat := rfl
@[simp] theorem State.stepComets_seq (s : State) : (s.stepComets).seq = s.seq := rfl
@[simp] theorem State.stepComets_ast (s : State) : (s.stepComets).ast = s.ast := rfl
@[simp] theorem State.stepComets_tcnt (s : State) : (s.stepComets).tcnt = s.tcnt := rfl
@[simp] theorem State.stepComets_ca (s : State) : (s.stepComets).ca = stepComet s.par.n s.ca := rfl
@[simp] theorem State.stepComets_cb (s : State) : (s.stepComets).cb = stepComet s.par.n s.cb := rfl
@[simp] theorem State.stepComets_ghue (s : State) : (s.stepComets).ghue = s.ghue := rfl
@[simp] theorem State.stepComets_prng (s : State) : (s.stepComets).prng = s.prng := rfl
@[simp] theorem State.stepComets_rv (s : State) : (s.stepComets).rv = s.rv := rfl
@[simp] theorem State.stepComets_rgb (s : State) : (s.stepComets).rgb = s.rgb := rfl
@[simp] theorem State.stepComets_pxr (s : State) : (s.stepComets).pxr = s.pxr := rfl
@[simp] theorem State.stepComets_hunter (s : State) : (s.stepComets).hunter = s.hunter := rfl
@[simp] theorem State.stepComets_deer (s : State) : (s.stepComets).deer = s.deer := rfl
@[simp] theorem State.stepComets_dir (s : State) : (s.stepComets).dir = s.dir := rfl
@[simp] theorem State.stepComets_speed (s : State) : (s.stepComets).speed = s.speed := rfl
@[simp] theorem State.stepComets_deadline (s : State) : (s.stepComets).deadline = s.deadline := rfl
@[simp] theorem State.stepComets_tnow (s : State) : (s.stepComets).tnow = s.tnow := rfl
@[simp] theorem State.stepComets_strip (s : State) : (s.stepComets).strip = s.strip := rfl
@[simp] theorem State.stepComets_armMs (s : State) : (s.stepComets).armMs = s.armMs := rfl
@[simp] theorem State.stepComets_hold (s : State) : (s.stepComets).hold = s.hold := rfl
@[simp] theorem State.stepComets_part (s : State) : (s.stepComets).part = s.part := rfl
@[simp] theorem State.stepComets_line (s : State) : (s.stepComets).line = s.line := rfl
@[simp] theorem State.stepComets_pending (s : State) : (s.stepComets).pending = s.pending := rfl
@[simp] theorem State.stepComets_env (s : State) : (s.stepComets).env = s.env := rfl
@[simp] theorem State.stepComets_par (s : State) : (s.stepComets).par = s.par := rfl

@[simp] theorem State.relocateDeer_cfg (r : Nat) (s : State) : (s.relocateDeer r).cfg = s.cfg := rfl
@[simp] theorem State.relocateDeer_stat (r : Nat) (s : State) : (s.relocateDeer r).stat = s.stat := rfl
@[simp] theorem State.relocateDeer_seq (r : Nat) (s : State) : (s.relocateDeer r).seq = s.seq := rfl
@[simp] theorem State.relocateDeer_ast (r : Nat) (s : State) : (s.relocateDeer r).ast = s.ast := rfl
@[simp] theorem State.relocateDeer_tcnt (r : Nat) (s : State) : (s.relocateDeer r).tcnt = s.tcnt := rfl
@[simp] theorem State.relocateDeer_ca (r : Nat) (s : State) : (s.relocateDeer r).ca = s.ca := rfl
@[simp] theorem State.relocateDeer_cb (r : Nat) (s : State) : (s.relocateDeer r).cb = s.cb := rfl
@[simp] theorem State.relocateDeer_ghue (r : Nat) (s : State) : (s.relocateDeer r).ghue = s.ghue := rfl
@[simp] theorem State.relocateDeer_prng (r : Nat) (s : State) : (s.relocateDeer r).prng = s.prng := rfl
@[simp] theorem State.relocateDeer_rv (r : Nat) (s : State) : (s.relocateDeer r).rv = s.rv := rfl
@[simp] theorem State.relocateDeer_rgb (r : Nat) (s : State) : (s.relocateDeer r).rgb = s.rgb := rfl
@[simp] theorem State.relocateDeer_pxr (r : Nat) (s : State) : (s.relocateDeer r).pxr = s.pxr := rfl
@[simp] theorem State.relocateDeer_hunter (r : Nat) (s : State) : (s.relocateDeer r).hunter = s.hunter := rfl
@[simp] theorem State.relocateDeer_deer (r : Nat) (s : State) : (s.relocateDeer r).deer = BitVec.ofNat 8 (s.wrap (s.hunter.toNat + 4 + r)) := rfl
@[simp] theorem State.relocateDeer_dir (r : Nat) (s : State) : (s.relocateDeer r).dir = 1 - s.dir := rfl
@[simp] theorem State.relocateDeer_speed (r : Nat) (s : State) : (s.relocateDeer r).speed = s.speed := rfl
@[simp] theorem State.relocateDeer_deadline (r : Nat) (s : State) : (s.relocateDeer r).deadline = s.deadline := rfl
@[simp] theorem State.relocateDeer_tnow (r : Nat) (s : State) : (s.relocateDeer r).tnow = s.tnow := rfl
@[simp] theorem State.relocateDeer_strip (r : Nat) (s : State) : (s.relocateDeer r).strip = s.strip := rfl
@[simp] theorem State.relocateDeer_armMs (r : Nat) (s : State) : (s.relocateDeer r).armMs = s.armMs := rfl
@[simp] theorem State.relocateDeer_hold (r : Nat) (s : State) : (s.relocateDeer r).hold = s.hold := rfl
@[simp] theorem State.relocateDeer_part (r : Nat) (s : State) : (s.relocateDeer r).part = s.part := rfl
@[simp] theorem State.relocateDeer_line (r : Nat) (s : State) : (s.relocateDeer r).line = s.line := rfl
@[simp] theorem State.relocateDeer_pending (r : Nat) (s : State) : (s.relocateDeer r).pending = s.pending := rfl
@[simp] theorem State.relocateDeer_env (r : Nat) (s : State) : (s.relocateDeer r).env = s.env := rfl
@[simp] theorem State.relocateDeer_par (r : Nat) (s : State) : (s.relocateDeer r).par = s.par := rfl

/-! ### The environment -/

@[simp] theorem State.envTime_cfg (k : Nat) (s : State) : (s.envTime k).cfg = s.cfg := rfl
@[simp] theorem State.envTime_stat (k : Nat) (s : State) : (s.envTime k).stat = s.stat := rfl
@[simp] theorem State.envTime_seq (k : Nat) (s : State) : (s.envTime k).seq = s.seq := rfl
@[simp] theorem State.envTime_ast (k : Nat) (s : State) : (s.envTime k).ast = s.ast := rfl
@[simp] theorem State.envTime_tcnt (k : Nat) (s : State) : (s.envTime k).tcnt = s.tcnt := rfl
@[simp] theorem State.envTime_ca (k : Nat) (s : State) : (s.envTime k).ca = s.ca := rfl
@[simp] theorem State.envTime_cb (k : Nat) (s : State) : (s.envTime k).cb = s.cb := rfl
@[simp] theorem State.envTime_ghue (k : Nat) (s : State) : (s.envTime k).ghue = s.ghue := rfl
@[simp] theorem State.envTime_prng (k : Nat) (s : State) : (s.envTime k).prng = s.prng := rfl
@[simp] theorem State.envTime_rv (k : Nat) (s : State) : (s.envTime k).rv = s.rv := rfl
@[simp] theorem State.envTime_rgb (k : Nat) (s : State) : (s.envTime k).rgb = s.rgb := rfl
@[simp] theorem State.envTime_pxr (k : Nat) (s : State) : (s.envTime k).pxr = s.pxr := rfl
@[simp] theorem State.envTime_hunter (k : Nat) (s : State) : (s.envTime k).hunter = s.hunter := rfl
@[simp] theorem State.envTime_deer (k : Nat) (s : State) : (s.envTime k).deer = s.deer := rfl
@[simp] theorem State.envTime_dir (k : Nat) (s : State) : (s.envTime k).dir = s.dir := rfl
@[simp] theorem State.envTime_speed (k : Nat) (s : State) : (s.envTime k).speed = s.speed := rfl
@[simp] theorem State.envTime_deadline (k : Nat) (s : State) : (s.envTime k).deadline = s.deadline := rfl
@[simp] theorem State.envTime_tnow (k : Nat) (s : State) : (s.envTime k).tnow = s.tnow := rfl
@[simp] theorem State.envTime_strip (k : Nat) (s : State) : (s.envTime k).strip = s.strip := rfl
@[simp] theorem State.envTime_armMs (k : Nat) (s : State) : (s.envTime k).armMs = s.armMs := rfl
@[simp] theorem State.envTime_hold (k : Nat) (s : State) : (s.envTime k).hold = s.hold := rfl
@[simp] theorem State.envTime_part (k : Nat) (s : State) : (s.envTime k).part = s.part := rfl
@[simp] theorem State.envTime_line (k : Nat) (s : State) : (s.envTime k).line = s.line := rfl
@[simp] theorem State.envTime_pending (k : Nat) (s : State) : (s.envTime k).pending = s.pending := rfl
@[simp] theorem State.envTime_par (k : Nat) (s : State) : (s.envTime k).par = s.par := rfl

@[simp] theorem State.envBtn_cfg (v : Bool) (s : State) : (s.envBtn v).cfg = s.cfg := rfl
@[simp] theorem State.envBtn_seq (v : Bool) (s : State) : (s.envBtn v).seq = s.seq := rfl
@[simp] theorem State.envBtn_ast (v : Bool) (s : State) : (s.envBtn v).ast = s.ast := rfl
@[simp] theorem State.envBtn_tcnt (v : Bool) (s : State) : (s.envBtn v).tcnt = s.tcnt := rfl
@[simp] theorem State.envBtn_ca (v : Bool) (s : State) : (s.envBtn v).ca = s.ca := rfl
@[simp] theorem State.envBtn_cb (v : Bool) (s : State) : (s.envBtn v).cb = s.cb := rfl
@[simp] theorem State.envBtn_ghue (v : Bool) (s : State) : (s.envBtn v).ghue = s.ghue := rfl
@[simp] theorem State.envBtn_prng (v : Bool) (s : State) : (s.envBtn v).prng = s.prng := rfl
@[simp] theorem State.envBtn_rv (v : Bool) (s : State) : (s.envBtn v).rv = s.rv := rfl
@[simp] theorem State.envBtn_rgb (v : Bool) (s : State) : (s.envBtn v).rgb = s.rgb := rfl
@[simp] theorem State.envBtn_pxr (v : Bool) (s : State) : (s.envBtn v).pxr = s.pxr := rfl
@[simp] theorem State.envBtn_hunter (v : Bool) (s : State) : (s.envBtn v).hunter = s.hunter := rfl
@[simp] theorem State.envBtn_deer (v : Bool) (s : State) : (s.envBtn v).deer = s.deer := rfl
@[simp] theorem State.envBtn_dir (v : Bool) (s : State) : (s.envBtn v).dir = s.dir := rfl
@[simp] theorem State.envBtn_speed (v : Bool) (s : State) : (s.envBtn v).speed = s.speed := rfl
@[simp] theorem State.envBtn_deadline (v : Bool) (s : State) : (s.envBtn v).deadline = s.deadline := rfl
@[simp] theorem State.envBtn_tnow (v : Bool) (s : State) : (s.envBtn v).tnow = s.tnow := rfl
@[simp] theorem State.envBtn_strip (v : Bool) (s : State) : (s.envBtn v).strip = s.strip := rfl
@[simp] theorem State.envBtn_armMs (v : Bool) (s : State) : (s.envBtn v).armMs = s.armMs := rfl
@[simp] theorem State.envBtn_hold (v : Bool) (s : State) : (s.envBtn v).hold = s.hold := rfl
@[simp] theorem State.envBtn_part (v : Bool) (s : State) : (s.envBtn v).part = s.part := rfl
@[simp] theorem State.envBtn_line (v : Bool) (s : State) : (s.envBtn v).line = s.line := rfl
@[simp] theorem State.envBtn_pending (v : Bool) (s : State) : (s.envBtn v).pending = s.pending := rfl
@[simp] theorem State.envBtn_par (v : Bool) (s : State) : (s.envBtn v).par = s.par := rfl

@[simp] theorem State.envTick_cfg (s : State) : (s.envTick).cfg = s.cfg := rfl
@[simp] theorem State.envTick_seq (s : State) : (s.envTick).seq = s.seq := rfl
@[simp] theorem State.envTick_ast (s : State) : (s.envTick).ast = s.ast := rfl
@[simp] theorem State.envTick_tcnt (s : State) : (s.envTick).tcnt = s.tcnt := rfl
@[simp] theorem State.envTick_ca (s : State) : (s.envTick).ca = s.ca := rfl
@[simp] theorem State.envTick_cb (s : State) : (s.envTick).cb = s.cb := rfl
@[simp] theorem State.envTick_ghue (s : State) : (s.envTick).ghue = s.ghue := rfl
@[simp] theorem State.envTick_prng (s : State) : (s.envTick).prng = s.prng := rfl
@[simp] theorem State.envTick_rv (s : State) : (s.envTick).rv = s.rv := rfl
@[simp] theorem State.envTick_rgb (s : State) : (s.envTick).rgb = s.rgb := rfl
@[simp] theorem State.envTick_pxr (s : State) : (s.envTick).pxr = s.pxr := rfl
@[simp] theorem State.envTick_hunter (s : State) : (s.envTick).hunter = s.hunter := rfl
@[simp] theorem State.envTick_deer (s : State) : (s.envTick).deer = s.deer := rfl
@[simp] theorem State.envTick_dir (s : State) : (s.envTick).dir = s.dir := rfl
@[simp] theorem State.envTick_speed (s : State) : (s.envTick).speed = s.speed := rfl
@[simp] theorem State.envTick_deadline (s : State) : (s.envTick).deadline = s.deadline := rfl
@[simp] theorem State.envTick_tnow (s : State) : (s.envTick).tnow = s.tnow := rfl
@[simp] theorem State.envTick_strip (s : State) : (s.envTick).strip = s.strip := rfl
@[simp] theorem State.envTick_armMs (s : State) : (s.envTick).armMs = s.armMs := rfl
@[simp] theorem State.envTick_hold (s : State) : (s.envTick).hold = s.hold := rfl
@[simp] theorem State.envTick_part (s : State) : (s.envTick).part = s.part := rfl
@[simp] theorem State.envTick_line (s : State) : (s.envTick).line = s.line := rfl
@[simp] theorem State.envTick_pending (s : State) : (s.envTick).pending = s.pending := rfl
@[simp] theorem State.envTick_env (s : State) : (s.envTick).env = s.env := rfl
@[simp] theorem State.envTick_par (s : State) : (s.envTick).par = s.par := rfl

@[simp] theorem State.envDelayDone_cfg (s : State) : (s.envDelayDone).cfg = s.cfg := rfl
@[simp] theorem State.envDelayDone_stat (s : State) : (s.envDelayDone).stat = s.stat := rfl
@[simp] theorem State.envDelayDone_seq (s : State) : (s.envDelayDone).seq = s.seq := rfl
@[simp] theorem State.envDelayDone_ast (s : State) : (s.envDelayDone).ast = s.ast := rfl
@[simp] theorem State.envDelayDone_tcnt (s : State) : (s.envDelayDone).tcnt = s.tcnt := rfl
@[simp] theorem State.envDelayDone_ca (s : State) : (s.envDelayDone).ca = s.ca := rfl
@[simp] theorem State.envDelayDone_cb (s : State) : (s.envDelayDone).cb = s.cb := rfl
@[simp] theorem State.envDelayDone_ghue (s : State) : (s.envDelayDone).ghue = s.ghue := rfl
@[simp] theorem State.envDelayDone_prng (s : State) : (s.envDelayDone).prng = s.prng := rfl
@[simp] theorem State.envDelayDone_rv (s : State) : (s.envDelayDone).rv = s.rv := rfl
@[simp] theorem State.envDelayDone_rgb (s : State) : (s.envDelayDone).rgb = s.rgb := rfl
@[simp] theorem State.envDelayDone_pxr (s : State) : (s.envDelayDone).pxr = s.pxr := rfl
@[simp] theorem State.envDelayDone_hunter (s : State) : (s.envDelayDone).hunter = s.hunter := rfl
@[simp] theorem State.envDelayDone_deer (s : State) : (s.envDelayDone).deer = s.deer := rfl
@[simp] theorem State.envDelayDone_dir (s : State) : (s.envDelayDone).dir = s.dir := rfl
@[simp] theorem State.envDelayDone_speed (s : State) : (s.envDelayDone).speed = s.speed := rfl
@[simp] theorem State.envDelayDone_deadline (s : State) : (s.envDelayDone).deadline = s.deadline := rfl
@[simp] theorem State.envDelayDone_tnow (s : State) : (s.envDelayDone).tnow = s.tnow := rfl
@[simp] theorem State.envDelayDone_strip (s : State) : (s.envDelayDone).strip = s.strip := rfl
@[simp] theorem State.envDelayDone_armMs (s : State) : (s.envDelayDone).armMs = s.armMs := rfl
@[simp] theorem State.envDelayDone_hold (s : State) : (s.envDelayDone).hold = s.hold := rfl
@[simp] theorem State.envDelayDone_part (s : State) : (s.envDelayDone).part = s.part := rfl
@[simp] theorem State.envDelayDone_line (s : State) : (s.envDelayDone).line = s.line := rfl
@[simp] theorem State.envDelayDone_pending (s : State) : (s.envDelayDone).pending = s.pending := rfl
@[simp] theorem State.envDelayDone_par (s : State) : (s.envDelayDone).par = s.par := rfl

@[simp] theorem State.setScript_cfg (es : List EnvEvent) (s : State) : (s.setScript es).cfg = s.cfg := rfl
@[simp] theorem State.setScript_stat (es : List EnvEvent) (s : State) : (s.setScript es).stat = s.stat := rfl
@[simp] theorem State.setScript_seq (es : List EnvEvent) (s : State) : (s.setScript es).seq = s.seq := rfl
@[simp] theorem State.setScript_ast (es : List EnvEvent) (s : State) : (s.setScript es).ast = s.ast := rfl
@[simp] theorem State.setScript_tcnt (es : List EnvEvent) (s : State) : (s.setScript es).tcnt = s.tcnt := rfl
@[simp] theorem State.setScript_ca (es : List EnvEvent) (s : State) : (s.setScript es).ca = s.ca := rfl
@[simp] theorem State.setScript_cb (es : List EnvEvent) (s : State) : (s.setScript es).cb = s.cb := rfl
@[simp] theorem State.setScript_ghue (es : List EnvEvent) (s : State) : (s.setScript es).ghue = s.ghue := rfl
@[simp] theorem State.setScript_prng (es : List EnvEvent) (s : State) : (s.setScript es).prng = s.prng := rfl
@[simp] theorem State.setScript_rv (es : List EnvEvent) (s : State) : (s.setScript es).rv = s.rv := rfl
@[simp] theorem State.setScript_rgb (es : List EnvEvent) (s : State) : (s.setScript es).rgb = s.rgb := rfl
@[simp] theorem State.setScript_pxr (es : List EnvEvent) (s : State) : (s.setScript es).pxr = s.pxr := rfl
@[simp] theorem State.setScript_hunter (es : List EnvEvent) (s : State) : (s.setScript es).hunter = s.hunter := rfl
@[simp] theorem State.setScript_deer (es : List EnvEvent) (s : State) : (s.setScript es).deer = s.deer := rfl
@[simp] theorem State.setScript_dir (es : List EnvEvent) (s : State) : (s.setScript es).dir = s.dir := rfl
@[simp] theorem State.setScript_speed (es : List EnvEvent) (s : State) : (s.setScript es).speed = s.speed := rfl
@[simp] theorem State.setScript_deadline (es : List EnvEvent) (s : State) : (s.setScript es).deadline = s.deadline := rfl
@[simp] theorem State.setScript_tnow (es : List EnvEvent) (s : State) : (s.setScript es).tnow = s.tnow := rfl
@[simp] theorem State.setScript_strip (es : List EnvEvent) (s : State) : (s.setScript es).strip = s.strip := rfl
@[simp] theorem State.setScript_armMs (es : List EnvEvent) (s : State) : (s.setScript es).armMs = s.armMs := rfl
@[simp] theorem State.setScript_hold (es : List EnvEvent) (s : State) : (s.setScript es).hold = s.hold := rfl
@[simp] theorem State.setScript_part (es : List EnvEvent) (s : State) : (s.setScript es).part = s.part := rfl
@[simp] theorem State.setScript_line (es : List EnvEvent) (s : State) : (s.setScript es).line = s.line := rfl
@[simp] theorem State.setScript_pending (es : List EnvEvent) (s : State) : (s.setScript es).pending = s.pending := rfl
@[simp] theorem State.setScript_par (es : List EnvEvent) (s : State) : (s.setScript es).par = s.par := rfl

@[simp] theorem State.envFair_cfg (s : State) : (s.envFair).cfg = s.cfg := rfl
@[simp] theorem State.envFair_seq (s : State) : (s.envFair).seq = s.seq := rfl
@[simp] theorem State.envFair_ast (s : State) : (s.envFair).ast = s.ast := rfl
@[simp] theorem State.envFair_tcnt (s : State) : (s.envFair).tcnt = s.tcnt := rfl
@[simp] theorem State.envFair_ca (s : State) : (s.envFair).ca = s.ca := rfl
@[simp] theorem State.envFair_cb (s : State) : (s.envFair).cb = s.cb := rfl
@[simp] theorem State.envFair_ghue (s : State) : (s.envFair).ghue = s.ghue := rfl
@[simp] theorem State.envFair_prng (s : State) : (s.envFair).prng = s.prng := rfl
@[simp] theorem State.envFair_rv (s : State) : (s.envFair).rv = s.rv := rfl
@[simp] theorem State.envFair_rgb (s : State) : (s.envFair).rgb = s.rgb := rfl
@[simp] theorem State.envFair_pxr (s : State) : (s.envFair).pxr = s.pxr := rfl
@[simp] theorem State.envFair_hunter (s : State) : (s.envFair).hunter = s.hunter := rfl
@[simp] theorem State.envFair_deer (s : State) : (s.envFair).deer = s.deer := rfl
@[simp] theorem State.envFair_dir (s : State) : (s.envFair).dir = s.dir := rfl
@[simp] theorem State.envFair_speed (s : State) : (s.envFair).speed = s.speed := rfl
@[simp] theorem State.envFair_deadline (s : State) : (s.envFair).deadline = s.deadline := rfl
@[simp] theorem State.envFair_tnow (s : State) : (s.envFair).tnow = s.tnow := rfl
@[simp] theorem State.envFair_strip (s : State) : (s.envFair).strip = s.strip := rfl
@[simp] theorem State.envFair_armMs (s : State) : (s.envFair).armMs = s.armMs := rfl
@[simp] theorem State.envFair_hold (s : State) : (s.envFair).hold = s.hold := rfl
@[simp] theorem State.envFair_part (s : State) : (s.envFair).part = s.part := rfl
@[simp] theorem State.envFair_line (s : State) : (s.envFair).line = s.line := rfl
@[simp] theorem State.envFair_pending (s : State) : (s.envFair).pending = s.pending := rfl
@[simp] theorem State.envFair_par (s : State) : (s.envFair).par = s.par := rfl

/-! ### The sequencer -/

@[simp] theorem State.goto_cfg (l : Label) (s : State) : (s.goto l).cfg = s.cfg := by unfold State.goto; split <;> rfl
@[simp] theorem State.goto_stat (l : Label) (s : State) : (s.goto l).stat = s.stat := by unfold State.goto; split <;> rfl
@[simp] theorem State.goto_ast (l : Label) (s : State) : (s.goto l).ast = s.ast := by unfold State.goto; split <;> rfl
@[simp] theorem State.goto_tcnt (l : Label) (s : State) : (s.goto l).tcnt = s.tcnt := by unfold State.goto; split <;> rfl
@[simp] theorem State.goto_ca (l : Label) (s : State) : (s.goto l).ca = s.ca := by unfold State.goto; split <;> rfl
@[simp] theorem State.goto_cb (l : Label) (s : State) : (s.goto l).cb = s.cb := by unfold State.goto; split <;> rfl
@[simp] theorem State.goto_ghue (l : Label) (s : State) : (s.goto l).ghue = s.ghue := by unfold State.goto; split <;> rfl
@[simp] theorem State.goto_prng (l : Label) (s : State) : (s.goto l).prng = s.prng := by unfold State.goto; split <;> rfl
@[simp] theorem State.goto_rv (l : Label) (s : State) : (s.goto l).rv = s.rv := by unfold State.goto; split <;> rfl
@[simp] theorem State.goto_rgb (l : Label) (s : State) : (s.goto l).rgb = s.rgb := by unfold State.goto; split <;> rfl
@[simp] theorem State.goto_pxr (l : Label) (s : State) : (s.goto l).pxr = s.pxr := by unfold State.goto; split <;> rfl
@[simp] theorem State.goto_hunter (l : Label) (s : State) : (s.goto l).hunter = s.hunter := by unfold State.goto; split <;> rfl
@[simp] theorem State.goto_deer (l : Label) (s : State) : (s.goto l).deer = s.deer := by unfold State.goto; split <;> rfl
@[simp] theorem State.goto_dir (l : Label) (s : State) : (s.goto l).dir = s.dir := by unfold State.goto; split <;> rfl
@[simp] theorem State.goto_speed (l : Label) (s : State) : (s.goto l).speed = s.speed := by unfold State.goto; split <;> rfl
@[simp] theorem State.goto_deadline (l : Label) (s : State) : (s.goto l).deadline = s.deadline := by unfold State.goto; split <;> rfl
@[simp] theorem State.goto_tnow (l : Label) (s : State) : (s.goto l).tnow = s.tnow := by unfold State.goto; split <;> rfl
@[simp] theorem State.goto_strip (l : Label) (s : State) : (s.goto l).strip = s.strip := by unfold State.goto; split <;> rfl
@[simp] theorem State.goto_armMs (l : Label) (s : State) : (s.goto l).armMs = s.armMs := by unfold State.goto; split <;> rfl
@[simp] theorem State.goto_hold (l : Label) (s : State) : (s.goto l).hold = s.hold := by unfold State.goto; split <;> rfl
@[simp] theorem State.goto_line (l : Label) (s : State) : (s.goto l).line = s.line := by unfold State.goto; split <;> rfl
@[simp] theorem State.goto_pending (l : Label) (s : State) : (s.goto l).pending = s.pending := by unfold State.goto; split <;> rfl
@[simp] theorem State.goto_env (l : Label) (s : State) : (s.goto l).env = s.env := by unfold State.goto; split <;> rfl
@[simp] theorem State.goto_par (l : Label) (s : State) : (s.goto l).par = s.par := by unfold State.goto; split <;> rfl

@[simp] theorem State.goPart_cfg (k : LabelPart) (s : State) : (s.goPart k).cfg = s.cfg := rfl
@[simp] theorem State.goPart_stat (k : LabelPart) (s : State) : (s.goPart k).stat = s.stat := rfl
@[simp] theorem State.goPart_seq (k : LabelPart) (s : State) : (s.goPart k).seq = s.seq := rfl
@[simp] theorem State.goPart_ast (k : LabelPart) (s : State) : (s.goPart k).ast = s.ast := rfl
@[simp] theorem State.goPart_tcnt (k : LabelPart) (s : State) : (s.goPart k).tcnt = s.tcnt := rfl
@[simp] theorem State.goPart_ca (k : LabelPart) (s : State) : (s.goPart k).ca = s.ca := rfl
@[simp] theorem State.goPart_cb (k : LabelPart) (s : State) : (s.goPart k).cb = s.cb := rfl
@[simp] theorem State.goPart_ghue (k : LabelPart) (s : State) : (s.goPart k).ghue = s.ghue := rfl
@[simp] theorem State.goPart_prng (k : LabelPart) (s : State) : (s.goPart k).prng = s.prng := rfl
@[simp] theorem State.goPart_rv (k : LabelPart) (s : State) : (s.goPart k).rv = s.rv := rfl
@[simp] theorem State.goPart_rgb (k : LabelPart) (s : State) : (s.goPart k).rgb = s.rgb := rfl
@[simp] theorem State.goPart_pxr (k : LabelPart) (s : State) : (s.goPart k).pxr = s.pxr := rfl
@[simp] theorem State.goPart_hunter (k : LabelPart) (s : State) : (s.goPart k).hunter = s.hunter := rfl
@[simp] theorem State.goPart_deer (k : LabelPart) (s : State) : (s.goPart k).deer = s.deer := rfl
@[simp] theorem State.goPart_dir (k : LabelPart) (s : State) : (s.goPart k).dir = s.dir := rfl
@[simp] theorem State.goPart_speed (k : LabelPart) (s : State) : (s.goPart k).speed = s.speed := rfl
@[simp] theorem State.goPart_deadline (k : LabelPart) (s : State) : (s.goPart k).deadline = s.deadline := rfl
@[simp] theorem State.goPart_tnow (k : LabelPart) (s : State) : (s.goPart k).tnow = s.tnow := rfl
@[simp] theorem State.goPart_strip (k : LabelPart) (s : State) : (s.goPart k).strip = s.strip := rfl
@[simp] theorem State.goPart_armMs (k : LabelPart) (s : State) : (s.goPart k).armMs = s.armMs := rfl
@[simp] theorem State.goPart_hold (k : LabelPart) (s : State) : (s.goPart k).hold = s.hold := rfl
@[simp] theorem State.goPart_part (k : LabelPart) (s : State) : (s.goPart k).part = k := rfl
@[simp] theorem State.goPart_line (k : LabelPart) (s : State) : (s.goPart k).line = s.line := rfl
@[simp] theorem State.goPart_pending (k : LabelPart) (s : State) : (s.goPart k).pending = s.pending := rfl
@[simp] theorem State.goPart_env (k : LabelPart) (s : State) : (s.goPart k).env = s.env := rfl
@[simp] theorem State.goPart_par (k : LabelPart) (s : State) : (s.goPart k).par = s.par := rfl

@[simp] theorem State.takeMode_cfg (s : State) : (s.takeMode).cfg = s.cfg := rfl
@[simp] theorem State.takeMode_seq (s : State) : (s.takeMode).seq = s.seq := rfl
@[simp] theorem State.takeMode_ast (s : State) : (s.takeMode).ast = s.ast := rfl
@[simp] theorem State.takeMode_tcnt (s : State) : (s.takeMode).tcnt = s.tcnt := rfl
@[simp] theorem State.takeMode_ca (s : State) : (s.takeMode).ca = s.ca := rfl
@[simp] theorem State.takeMode_cb (s : State) : (s.takeMode).cb = s.cb := rfl
@[simp] theorem State.takeMode_ghue (s : State) : (s.takeMode).ghue = s.ghue := rfl
@[simp] theorem State.takeMode_prng (s : State) : (s.takeMode).prng = s.prng := rfl
@[simp] theorem State.takeMode_rv (s : State) : (s.takeMode).rv = s.rv := rfl
@[simp] theorem State.takeMode_rgb (s : State) : (s.takeMode).rgb = s.rgb := rfl
@[simp] theorem State.takeMode_pxr (s : State) : (s.takeMode).pxr = s.pxr := rfl
@[simp] theorem State.takeMode_hunter (s : State) : (s.takeMode).hunter = s.hunter := rfl
@[simp] theorem State.takeMode_deer (s : State) : (s.takeMode).deer = s.deer := rfl
@[simp] theorem State.takeMode_dir (s : State) : (s.takeMode).dir = s.dir := rfl
@[simp] theorem State.takeMode_speed (s : State) : (s.takeMode).speed = s.speed := rfl
@[simp] theorem State.takeMode_deadline (s : State) : (s.takeMode).deadline = s.deadline := rfl
@[simp] theorem State.takeMode_tnow (s : State) : (s.takeMode).tnow = s.tnow := rfl
@[simp] theorem State.takeMode_strip (s : State) : (s.takeMode).strip = s.strip := rfl
@[simp] theorem State.takeMode_armMs (s : State) : (s.takeMode).armMs = s.armMs := rfl
@[simp] theorem State.takeMode_hold (s : State) : (s.takeMode).hold = s.hold := rfl
@[simp] theorem State.takeMode_part (s : State) : (s.takeMode).part = s.part := rfl
@[simp] theorem State.takeMode_line (s : State) : (s.takeMode).line = s.line := rfl
@[simp] theorem State.takeMode_pending (s : State) : (s.takeMode).pending = s.pending := rfl
@[simp] theorem State.takeMode_env (s : State) : (s.takeMode).env = s.env := rfl
@[simp] theorem State.takeMode_par (s : State) : (s.takeMode).par = s.par := rfl

@[simp] theorem State.retire_cfg (s : State) : (s.retire).cfg = s.cfg := by unfold State.retire; split <;> rfl
@[simp] theorem State.retire_stat (s : State) : (s.retire).stat = s.stat := by unfold State.retire; split <;> rfl
@[simp] theorem State.retire_seq (s : State) : (s.retire).seq = s.seq := by unfold State.retire; split <;> rfl
@[simp] theorem State.retire_ast (s : State) : (s.retire).ast = s.ast := by unfold State.retire; split <;> rfl
@[simp] theorem State.retire_tcnt (s : State) : (s.retire).tcnt = s.tcnt := by unfold State.retire; split <;> rfl
@[simp] theorem State.retire_ca (s : State) : (s.retire).ca = s.ca := by unfold State.retire; split <;> rfl
@[simp] theorem State.retire_cb (s : State) : (s.retire).cb = s.cb := by unfold State.retire; split <;> rfl
@[simp] theorem State.retire_ghue (s : State) : (s.retire).ghue = s.ghue := by unfold State.retire; split <;> rfl
@[simp] theorem State.retire_prng (s : State) : (s.retire).prng = s.prng := by unfold State.retire; split <;> rfl
@[simp] theorem State.retire_rv (s : State) : (s.retire).rv = s.rv := by unfold State.retire; split <;> rfl
@[simp] theorem State.retire_rgb (s : State) : (s.retire).rgb = s.rgb := by unfold State.retire; split <;> rfl
@[simp] theorem State.retire_pxr (s : State) : (s.retire).pxr = s.pxr := by unfold State.retire; split <;> rfl
@[simp] theorem State.retire_hunter (s : State) : (s.retire).hunter = s.hunter := by unfold State.retire; split <;> rfl
@[simp] theorem State.retire_deer (s : State) : (s.retire).deer = s.deer := by unfold State.retire; split <;> rfl
@[simp] theorem State.retire_dir (s : State) : (s.retire).dir = s.dir := by unfold State.retire; split <;> rfl
@[simp] theorem State.retire_speed (s : State) : (s.retire).speed = s.speed := by unfold State.retire; split <;> rfl
@[simp] theorem State.retire_deadline (s : State) : (s.retire).deadline = s.deadline := by unfold State.retire; split <;> rfl
@[simp] theorem State.retire_tnow (s : State) : (s.retire).tnow = s.tnow := by unfold State.retire; split <;> rfl
@[simp] theorem State.retire_strip (s : State) : (s.retire).strip = s.strip := by unfold State.retire; split <;> rfl
@[simp] theorem State.retire_armMs (s : State) : (s.retire).armMs = s.armMs := by unfold State.retire; split <;> rfl
@[simp] theorem State.retire_hold (s : State) : (s.retire).hold = s.hold := by unfold State.retire; split <;> rfl
@[simp] theorem State.retire_part (s : State) : (s.retire).part = s.part := by unfold State.retire; split <;> rfl
@[simp] theorem State.retire_line (s : State) : (s.retire).line = s.line := by unfold State.retire; split <;> rfl
@[simp] theorem State.retire_env (s : State) : (s.retire).env = s.env := by unfold State.retire; split <;> rfl
@[simp] theorem State.retire_par (s : State) : (s.retire).par = s.par := by unfold State.retire; split <;> rfl

@[simp] theorem State.issueNext_cfg (w : Word) (s : State) : (s.issueNext w).cfg = s.cfg := rfl
@[simp] theorem State.issueNext_stat (w : Word) (s : State) : (s.issueNext w).stat = s.stat := rfl
@[simp] theorem State.issueNext_seq (w : Word) (s : State) : (s.issueNext w).seq = s.seq := rfl
@[simp] theorem State.issueNext_ast (w : Word) (s : State) : (s.issueNext w).ast = s.ast := rfl
@[simp] theorem State.issueNext_tcnt (w : Word) (s : State) : (s.issueNext w).tcnt = s.tcnt := rfl
@[simp] theorem State.issueNext_ca (w : Word) (s : State) : (s.issueNext w).ca = s.ca := rfl
@[simp] theorem State.issueNext_cb (w : Word) (s : State) : (s.issueNext w).cb = s.cb := rfl
@[simp] theorem State.issueNext_ghue (w : Word) (s : State) : (s.issueNext w).ghue = s.ghue := rfl
@[simp] theorem State.issueNext_prng (w : Word) (s : State) : (s.issueNext w).prng = s.prng := rfl
@[simp] theorem State.issueNext_rv (w : Word) (s : State) : (s.issueNext w).rv = s.rv := rfl
@[simp] theorem State.issueNext_rgb (w : Word) (s : State) : (s.issueNext w).rgb = s.rgb := rfl
@[simp] theorem State.issueNext_pxr (w : Word) (s : State) : (s.issueNext w).pxr = s.pxr := rfl
@[simp] theorem State.issueNext_hunter (w : Word) (s : State) : (s.issueNext w).hunter = s.hunter := rfl
@[simp] theorem State.issueNext_deer (w : Word) (s : State) : (s.issueNext w).deer = s.deer := rfl
@[simp] theorem State.issueNext_dir (w : Word) (s : State) : (s.issueNext w).dir = s.dir := rfl
@[simp] theorem State.issueNext_speed (w : Word) (s : State) : (s.issueNext w).speed = s.speed := rfl
@[simp] theorem State.issueNext_deadline (w : Word) (s : State) : (s.issueNext w).deadline = s.deadline := rfl
@[simp] theorem State.issueNext_tnow (w : Word) (s : State) : (s.issueNext w).tnow = s.tnow := rfl
@[simp] theorem State.issueNext_strip (w : Word) (s : State) : (s.issueNext w).strip = s.strip := rfl
@[simp] theorem State.issueNext_armMs (w : Word) (s : State) : (s.issueNext w).armMs = s.armMs := rfl
@[simp] theorem State.issueNext_hold (w : Word) (s : State) : (s.issueNext w).hold = .running := rfl
@[simp] theorem State.issueNext_part (w : Word) (s : State) : (s.issueNext w).part = s.part := rfl
@[simp] theorem State.issueNext_line (w : Word) (s : State) : (s.issueNext w).line = s.line := rfl
@[simp] theorem State.issueNext_pending (w : Word) (s : State) : (s.issueNext w).pending = w :: s.pending := rfl
@[simp] theorem State.issueNext_env (w : Word) (s : State) : (s.issueNext w).env = s.env := rfl
@[simp] theorem State.issueNext_par (w : Word) (s : State) : (s.issueNext w).par = s.par := rfl

end Sys2Proof.Machine
end

