-- ==== Sys2Proof/Laws/Flags.lean ====
section
/-! SUPPORT. The flags of STAT after each named update. -/

namespace Sys2Proof.Machine

/-- Writing one bit of STAT leaves the others. -/
theorem getLsbD_setBit8 (v : BitVec 8) (i : Nat) (hi : i < 8) (b : Bool) (j : Nat) :
    (setBit8 v i b).getLsbD j = if j = i then b else v.getLsbD j := by
  have h1 : ∀ v : BitVec 8, ∀ i : Fin 8, ∀ b : Bool, ∀ j : Fin 8,
      (setBit8 v i b).getLsbD j = if j = i then b else v.getLsbD j := by
    intro v i b j
    unfold setBit8
    fin_cases i <;> fin_cases j <;> cases b <;> simp
  by_cases hj : j < 8
  · have := h1 v ⟨i, hi⟩ b ⟨j, hj⟩
    simpa [Fin.ext_iff] using this
  · have hne : j ≠ i := by omega
    simp [hne, BitVec.getLsbD_of_ge, Nat.le_of_not_lt hj]

/-- Writing one bit of STAT leaves the others, as simp spells a bit. -/
@[simp] theorem getElem_setBit8 (v : BitVec 8) (i : Nat) (b : Bool) (j : Nat) (hj : j < 8) (hi : i < 8) :
    (setBit8 v i b)[j] = if j = i then b else v[j] := by
  have h := getLsbD_setBit8 v i hi b j
  rwa [BitVec.getLsbD_eq_getElem hj, BitVec.getLsbD_eq_getElem hj] at h

/-- Two values of STAT with the same eight bits are the same. -/
theorem stat_ext {v w : BitVec 8} (h : ∀ j, j < 8 → v.getLsbD j = w.getLsbD j) : v = w :=
  BitVec.eq_of_getLsbD_eq (fun j hj => h j hj)

@[simp] theorem State.setWake_wake (b : Bool) (s : State) : (s.setWake b).wake = b := by
  simp [State.wake]
@[simp] theorem State.setWake_im (b : Bool) (s : State) : (s.setWake b).im = s.im := by
  simp [State.im]
@[simp] theorem State.setWake_man (b : Bool) (s : State) : (s.setWake b).man = s.man := by
  simp [State.man]
@[simp] theorem State.setWake_bs (b : Bool) (s : State) : (s.setWake b).bs = s.bs := by
  simp [State.bs]
@[simp] theorem State.setWake_tarm (b : Bool) (s : State) : (s.setWake b).tarm = s.tarm := by
  simp [State.tarm]
@[simp] theorem State.setWake_barm (b : Bool) (s : State) : (s.setWake b).barm = s.barm := by
  simp [State.barm]
@[simp] theorem State.setWake_dout (b : Bool) (s : State) : (s.setWake b).dout = s.dout := by
  simp [State.dout]
@[simp] theorem State.setWake_oe (b : Bool) (s : State) : (s.setWake b).oe = s.oe := by
  simp [State.oe]

@[simp] theorem State.setIm_wake (b : Bool) (s : State) : (s.setIm b).wake = s.wake := by
  simp [State.wake]
@[simp] theorem State.setIm_im (b : Bool) (s : State) : (s.setIm b).im = b := by
  simp [State.im]
@[simp] theorem State.setIm_man (b : Bool) (s : State) : (s.setIm b).man = s.man := by
  simp [State.man]
@[simp] theorem State.setIm_bs (b : Bool) (s : State) : (s.setIm b).bs = s.bs := by
  simp [State.bs]
@[simp] theorem State.setIm_tarm (b : Bool) (s : State) : (s.setIm b).tarm = s.tarm := by
  simp [State.tarm]
@[simp] theorem State.setIm_barm (b : Bool) (s : State) : (s.setIm b).barm = s.barm := by
  simp [State.barm]
@[simp] theorem State.setIm_dout (b : Bool) (s : State) : (s.setIm b).dout = s.dout := by
  simp [State.dout]
@[simp] theorem State.setIm_oe (b : Bool) (s : State) : (s.setIm b).oe = s.oe := by
  simp [State.oe]

@[simp] theorem State.setMan_wake (b : Bool) (s : State) : (s.setMan b).wake = s.wake := by
  simp [State.wake]
@[simp] theorem State.setMan_im (b : Bool) (s : State) : (s.setMan b).im = s.im := by
  simp [State.im]
@[simp] theorem State.setMan_man (b : Bool) (s : State) : (s.setMan b).man = b := by
  simp [State.man]
@[simp] theorem State.setMan_bs (b : Bool) (s : State) : (s.setMan b).bs = s.bs := by
  simp [State.bs]
@[simp] theorem State.setMan_tarm (b : Bool) (s : State) : (s.setMan b).tarm = s.tarm := by
  simp [State.tarm]
@[simp] theorem State.setMan_barm (b : Bool) (s : State) : (s.setMan b).barm = s.barm := by
  simp [State.barm]
@[simp] theorem State.setMan_dout (b : Bool) (s : State) : (s.setMan b).dout = s.dout := by
  simp [State.dout]
@[simp] theorem State.setMan_oe (b : Bool) (s : State) : (s.setMan b).oe = s.oe := by
  simp [State.oe]

@[simp] theorem State.setBs_wake (b : Bool) (s : State) : (s.setBs b).wake = s.wake := by
  simp [State.wake]
@[simp] theorem State.setBs_im (b : Bool) (s : State) : (s.setBs b).im = s.im := by
  simp [State.im]
@[simp] theorem State.setBs_man (b : Bool) (s : State) : (s.setBs b).man = s.man := by
  simp [State.man]
@[simp] theorem State.setBs_bs (b : Bool) (s : State) : (s.setBs b).bs = b := by
  simp [State.bs]
@[simp] theorem State.setBs_tarm (b : Bool) (s : State) : (s.setBs b).tarm = s.tarm := by
  simp [State.tarm]
@[simp] theorem State.setBs_barm (b : Bool) (s : State) : (s.setBs b).barm = s.barm := by
  simp [State.barm]
@[simp] theorem State.setBs_dout (b : Bool) (s : State) : (s.setBs b).dout = s.dout := by
  simp [State.dout]
@[simp] theorem State.setBs_oe (b : Bool) (s : State) : (s.setBs b).oe = s.oe := by
  simp [State.oe]

@[simp] theorem State.setTarm_wake (b : Bool) (s : State) : (s.setTarm b).wake = s.wake := by
  simp [State.wake]
@[simp] theorem State.setTarm_im (b : Bool) (s : State) : (s.setTarm b).im = s.im := by
  simp [State.im]
@[simp] theorem State.setTarm_man (b : Bool) (s : State) : (s.setTarm b).man = s.man := by
  simp [State.man]
@[simp] theorem State.setTarm_bs (b : Bool) (s : State) : (s.setTarm b).bs = s.bs := by
  simp [State.bs]
@[simp] theorem State.setTarm_tarm (b : Bool) (s : State) : (s.setTarm b).tarm = b := by
  simp [State.tarm]
@[simp] theorem State.setTarm_barm (b : Bool) (s : State) : (s.setTarm b).barm = s.barm := by
  simp [State.barm]
@[simp] theorem State.setTarm_dout (b : Bool) (s : State) : (s.setTarm b).dout = s.dout := by
  simp [State.dout]
@[simp] theorem State.setTarm_oe (b : Bool) (s : State) : (s.setTarm b).oe = s.oe := by
  simp [State.oe]

@[simp] theorem State.setBarm_wake (b : Bool) (s : State) : (s.setBarm b).wake = s.wake := by
  simp [State.wake]
@[simp] theorem State.setBarm_im (b : Bool) (s : State) : (s.setBarm b).im = s.im := by
  simp [State.im]
@[simp] theorem State.setBarm_man (b : Bool) (s : State) : (s.setBarm b).man = s.man := by
  simp [State.man]
@[simp] theorem State.setBarm_bs (b : Bool) (s : State) : (s.setBarm b).bs = s.bs := by
  simp [State.bs]
@[simp] theorem State.setBarm_tarm (b : Bool) (s : State) : (s.setBarm b).tarm = s.tarm := by
  simp [State.tarm]
@[simp] theorem State.setBarm_barm (b : Bool) (s : State) : (s.setBarm b).barm = b := by
  simp [State.barm]
@[simp] theorem State.setBarm_dout (b : Bool) (s : State) : (s.setBarm b).dout = s.dout := by
  simp [State.dout]
@[simp] theorem State.setBarm_oe (b : Bool) (s : State) : (s.setBarm b).oe = s.oe := by
  simp [State.oe]

@[simp] theorem State.setDout_wake (b : Bool) (s : State) : (s.setDout b).wake = s.wake := by
  simp [State.wake]
@[simp] theorem State.setDout_im (b : Bool) (s : State) : (s.setDout b).im = s.im := by
  simp [State.im]
@[simp] theorem State.setDout_man (b : Bool) (s : State) : (s.setDout b).man = s.man := by
  simp [State.man]
@[simp] theorem State.setDout_bs (b : Bool) (s : State) : (s.setDout b).bs = s.bs := by
  simp [State.bs]
@[simp] theorem State.setDout_tarm (b : Bool) (s : State) : (s.setDout b).tarm = s.tarm := by
  simp [State.tarm]
@[simp] theorem State.setDout_barm (b : Bool) (s : State) : (s.setDout b).barm = s.barm := by
  simp [State.barm]
@[simp] theorem State.setDout_dout (b : Bool) (s : State) : (s.setDout b).dout = b := by
  simp [State.dout]
@[simp] theorem State.setDout_oe (b : Bool) (s : State) : (s.setDout b).oe = s.oe := by
  simp [State.oe]

@[simp] theorem State.setOe_wake (b : Bool) (s : State) : (s.setOe b).wake = s.wake := by
  simp [State.wake]
@[simp] theorem State.setOe_im (b : Bool) (s : State) : (s.setOe b).im = s.im := by
  simp [State.im]
@[simp] theorem State.setOe_man (b : Bool) (s : State) : (s.setOe b).man = s.man := by
  simp [State.man]
@[simp] theorem State.setOe_bs (b : Bool) (s : State) : (s.setOe b).bs = s.bs := by
  simp [State.bs]
@[simp] theorem State.setOe_tarm (b : Bool) (s : State) : (s.setOe b).tarm = s.tarm := by
  simp [State.tarm]
@[simp] theorem State.setOe_barm (b : Bool) (s : State) : (s.setOe b).barm = s.barm := by
  simp [State.barm]
@[simp] theorem State.setOe_dout (b : Bool) (s : State) : (s.setOe b).dout = s.dout := by
  simp [State.dout]
@[simp] theorem State.setOe_oe (b : Bool) (s : State) : (s.setOe b).oe = b := by
  simp [State.oe]

@[simp] theorem State.sampleButton_wake (s : State) : s.sampleButton.wake = s.wake := by
  simp [State.wake]
@[simp] theorem State.sampleButton_im (s : State) : s.sampleButton.im = s.im := by
  simp [State.im]
@[simp] theorem State.sampleButton_man (s : State) : s.sampleButton.man = s.man := by
  simp [State.man]
@[simp] theorem State.sampleButton_bs (s : State) : s.sampleButton.bs = (!s.env.btnN) := by
  simp [State.bs]
@[simp] theorem State.sampleButton_tarm (s : State) : s.sampleButton.tarm = s.tarm := by
  simp [State.tarm]
@[simp] theorem State.sampleButton_barm (s : State) : s.sampleButton.barm = s.barm := by
  simp [State.barm]
@[simp] theorem State.sampleButton_dout (s : State) : s.sampleButton.dout = s.dout := by
  simp [State.dout]
@[simp] theorem State.sampleButton_oe (s : State) : s.sampleButton.oe = s.oe := by
  simp [State.oe]

@[simp] theorem State.takeWake_wake (s : State) : s.takeWake.wake = true := by
  simp [State.wake]
@[simp] theorem State.takeWake_im (s : State) : s.takeWake.im = s.im := by
  simp [State.im]
@[simp] theorem State.takeWake_man (s : State) : s.takeWake.man = s.man := by
  simp [State.man]
@[simp] theorem State.takeWake_bs (s : State) : s.takeWake.bs = s.bs := by
  simp [State.bs]
@[simp] theorem State.takeWake_tarm (s : State) : s.takeWake.tarm = s.tarm := by
  simp [State.tarm]
@[simp] theorem State.takeWake_barm (s : State) : s.takeWake.barm = s.barm := by
  simp [State.barm]
@[simp] theorem State.takeWake_dout (s : State) : s.takeWake.dout = s.dout := by
  simp [State.dout]
@[simp] theorem State.takeWake_oe (s : State) : s.takeWake.oe = s.oe := by
  simp [State.oe]

@[simp] theorem State.pulse_wake (b tight : Bool) (s : State) : (s.pulse b tight).wake = s.wake := by
  simp [State.wake]
@[simp] theorem State.pulse_im (b tight : Bool) (s : State) : (s.pulse b tight).im = s.im := by
  simp [State.im]
@[simp] theorem State.pulse_man (b tight : Bool) (s : State) : (s.pulse b tight).man = s.man := by
  simp [State.man]
@[simp] theorem State.pulse_bs (b tight : Bool) (s : State) : (s.pulse b tight).bs = s.bs := by
  simp [State.bs]
@[simp] theorem State.pulse_tarm (b tight : Bool) (s : State) : (s.pulse b tight).tarm = s.tarm := by
  simp [State.tarm]
@[simp] theorem State.pulse_barm (b tight : Bool) (s : State) : (s.pulse b tight).barm = s.barm := by
  simp [State.barm]
@[simp] theorem State.pulse_dout (b tight : Bool) (s : State) : (s.pulse b tight).dout = false := by
  simp [State.dout]
@[simp] theorem State.pulse_oe (b tight : Bool) (s : State) : (s.pulse b tight).oe = s.oe := by
  simp [State.oe]

@[simp] theorem State.takeMode_wake (s : State) : s.takeMode.wake = s.wake := by
  simp [State.takeMode]
@[simp] theorem State.takeMode_im (s : State) : s.takeMode.im = s.im := by
  simp [State.takeMode]
@[simp] theorem State.takeMode_man (s : State) : s.takeMode.man = s.bs := by
  simp [State.takeMode]
@[simp] theorem State.takeMode_bs (s : State) : s.takeMode.bs = s.bs := by
  simp [State.takeMode]
@[simp] theorem State.takeMode_tarm (s : State) : s.takeMode.tarm = s.tarm := by
  simp [State.takeMode]
@[simp] theorem State.takeMode_barm (s : State) : s.takeMode.barm = s.bs := by
  simp [State.takeMode]
@[simp] theorem State.takeMode_dout (s : State) : s.takeMode.dout = s.dout := by
  simp [State.takeMode]
@[simp] theorem State.takeMode_oe (s : State) : s.takeMode.oe = s.oe := by
  simp [State.takeMode]

@[simp] theorem State.elapse_wake (m : Nat) (s : State) : (s.elapse m).wake = s.wake := by
  simp [State.wake]
@[simp] theorem State.elapse_im (m : Nat) (s : State) : (s.elapse m).im = s.im := by
  simp [State.im]
@[simp] theorem State.elapse_man (m : Nat) (s : State) : (s.elapse m).man = s.man := by
  simp [State.man]
@[simp] theorem State.elapse_bs (m : Nat) (s : State) : (s.elapse m).bs = s.bs := by
  simp [State.bs]
@[simp] theorem State.elapse_tarm (m : Nat) (s : State) : (s.elapse m).tarm = s.tarm := by
  simp [State.tarm]
@[simp] theorem State.elapse_barm (m : Nat) (s : State) : (s.elapse m).barm = s.barm := by
  simp [State.barm]
@[simp] theorem State.elapse_dout (m : Nat) (s : State) : (s.elapse m).dout = s.dout := by
  simp [State.dout]
@[simp] theorem State.elapse_oe (m : Nat) (s : State) : (s.elapse m).oe = s.oe := by
  simp [State.oe]

@[simp] theorem State.latchGap_wake (s : State) : (s.latchGap).wake = s.wake := by
  simp [State.wake]
@[simp] theorem State.latchGap_im (s : State) : (s.latchGap).im = s.im := by
  simp [State.im]
@[simp] theorem State.latchGap_man (s : State) : (s.latchGap).man = s.man := by
  simp [State.man]
@[simp] theorem State.latchGap_bs (s : State) : (s.latchGap).bs = s.bs := by
  simp [State.bs]
@[simp] theorem State.latchGap_tarm (s : State) : (s.latchGap).tarm = s.tarm := by
  simp [State.tarm]
@[simp] theorem State.latchGap_barm (s : State) : (s.latchGap).barm = s.barm := by
  simp [State.barm]
@[simp] theorem State.latchGap_dout (s : State) : (s.latchGap).dout = s.dout := by
  simp [State.dout]
@[simp] theorem State.latchGap_oe (s : State) : (s.latchGap).oe = s.oe := by
  simp [State.oe]

@[simp] theorem State.setHold_wake (h : Hold) (s : State) : (s.setHold h).wake = s.wake := by
  simp [State.wake]
@[simp] theorem State.setHold_im (h : Hold) (s : State) : (s.setHold h).im = s.im := by
  simp [State.im]
@[simp] theorem State.setHold_man (h : Hold) (s : State) : (s.setHold h).man = s.man := by
  simp [State.man]
@[simp] theorem State.setHold_bs (h : Hold) (s : State) : (s.setHold h).bs = s.bs := by
  simp [State.bs]
@[simp] theorem State.setHold_tarm (h : Hold) (s : State) : (s.setHold h).tarm = s.tarm := by
  simp [State.tarm]
@[simp] theorem State.setHold_barm (h : Hold) (s : State) : (s.setHold h).barm = s.barm := by
  simp [State.barm]
@[simp] theorem State.setHold_dout (h : Hold) (s : State) : (s.setHold h).dout = s.dout := by
  simp [State.dout]
@[simp] theorem State.setHold_oe (h : Hold) (s : State) : (s.setHold h).oe = s.oe := by
  simp [State.oe]

@[simp] theorem State.sampleCounter_wake (s : State) : (s.sampleCounter).wake = s.wake := by
  simp [State.wake]
@[simp] theorem State.sampleCounter_im (s : State) : (s.sampleCounter).im = s.im := by
  simp [State.im]
@[simp] theorem State.sampleCounter_man (s : State) : (s.sampleCounter).man = s.man := by
  simp [State.man]
@[simp] theorem State.sampleCounter_bs (s : State) : (s.sampleCounter).bs = s.bs := by
  simp [State.bs]
@[simp] theorem State.sampleCounter_tarm (s : State) : (s.sampleCounter).tarm = s.tarm := by
  simp [State.tarm]
@[simp] theorem State.sampleCounter_barm (s : State) : (s.sampleCounter).barm = s.barm := by
  simp [State.barm]
@[simp] theorem State.sampleCounter_dout (s : State) : (s.sampleCounter).dout = s.dout := by
  simp [State.dout]
@[simp] theorem State.sampleCounter_oe (s : State) : (s.sampleCounter).oe = s.oe := by
  simp [State.oe]

@[simp] theorem State.putEntry_wake (a : Nat) (e : Entry) (s : State) : (s.putEntry a e).wake = s.wake := by
  simp [State.wake]
@[simp] theorem State.putEntry_im (a : Nat) (e : Entry) (s : State) : (s.putEntry a e).im = s.im := by
  simp [State.im]
@[simp] theorem State.putEntry_man (a : Nat) (e : Entry) (s : State) : (s.putEntry a e).man = s.man := by
  simp [State.man]
@[simp] theorem State.putEntry_bs (a : Nat) (e : Entry) (s : State) : (s.putEntry a e).bs = s.bs := by
  simp [State.bs]
@[simp] theorem State.putEntry_tarm (a : Nat) (e : Entry) (s : State) : (s.putEntry a e).tarm = s.tarm := by
  simp [State.tarm]
@[simp] theorem State.putEntry_barm (a : Nat) (e : Entry) (s : State) : (s.putEntry a e).barm = s.barm := by
  simp [State.barm]
@[simp] theorem State.putEntry_dout (a : Nat) (e : Entry) (s : State) : (s.putEntry a e).dout = s.dout := by
  simp [State.dout]
@[simp] theorem State.putEntry_oe (a : Nat) (e : Entry) (s : State) : (s.putEntry a e).oe = s.oe := by
  simp [State.oe]

@[simp] theorem State.fadeStrip_wake (s : State) : (s.fadeStrip).wake = s.wake := by
  simp [State.wake]
@[simp] theorem State.fadeStrip_im (s : State) : (s.fadeStrip).im = s.im := by
  simp [State.im]
@[simp] theorem State.fadeStrip_man (s : State) : (s.fadeStrip).man = s.man := by
  simp [State.man]
@[simp] theorem State.fadeStrip_bs (s : State) : (s.fadeStrip).bs = s.bs := by
  simp [State.bs]
@[simp] theorem State.fadeStrip_tarm (s : State) : (s.fadeStrip).tarm = s.tarm := by
  simp [State.tarm]
@[simp] theorem State.fadeStrip_barm (s : State) : (s.fadeStrip).barm = s.barm := by
  simp [State.barm]
@[simp] theorem State.fadeStrip_dout (s : State) : (s.fadeStrip).dout = s.dout := by
  simp [State.dout]
@[simp] theorem State.fadeStrip_oe (s : State) : (s.fadeStrip).oe = s.oe := by
  simp [State.oe]

@[simp] theorem State.clearStrip_wake (s : State) : (s.clearStrip).wake = s.wake := by
  simp [State.wake]
@[simp] theorem State.clearStrip_im (s : State) : (s.clearStrip).im = s.im := by
  simp [State.im]
@[simp] theorem State.clearStrip_man (s : State) : (s.clearStrip).man = s.man := by
  simp [State.man]
@[simp] theorem State.clearStrip_bs (s : State) : (s.clearStrip).bs = s.bs := by
  simp [State.bs]
@[simp] theorem State.clearStrip_tarm (s : State) : (s.clearStrip).tarm = s.tarm := by
  simp [State.tarm]
@[simp] theorem State.clearStrip_barm (s : State) : (s.clearStrip).barm = s.barm := by
  simp [State.barm]
@[simp] theorem State.clearStrip_dout (s : State) : (s.clearStrip).dout = s.dout := by
  simp [State.dout]
@[simp] theorem State.clearStrip_oe (s : State) : (s.clearStrip).oe = s.oe := by
  simp [State.oe]

@[simp] theorem State.goto_wake (l : Label) (s : State) : (s.goto l).wake = s.wake := by
  simp [State.wake]
@[simp] theorem State.goto_im (l : Label) (s : State) : (s.goto l).im = s.im := by
  simp [State.im]
@[simp] theorem State.goto_man (l : Label) (s : State) : (s.goto l).man = s.man := by
  simp [State.man]
@[simp] theorem State.goto_bs (l : Label) (s : State) : (s.goto l).bs = s.bs := by
  simp [State.bs]
@[simp] theorem State.goto_tarm (l : Label) (s : State) : (s.goto l).tarm = s.tarm := by
  simp [State.tarm]
@[simp] theorem State.goto_barm (l : Label) (s : State) : (s.goto l).barm = s.barm := by
  simp [State.barm]
@[simp] theorem State.goto_dout (l : Label) (s : State) : (s.goto l).dout = s.dout := by
  simp [State.dout]
@[simp] theorem State.goto_oe (l : Label) (s : State) : (s.goto l).oe = s.oe := by
  simp [State.oe]

@[simp] theorem State.goPart_wake (k : LabelPart) (s : State) : (s.goPart k).wake = s.wake := by
  simp [State.wake]
@[simp] theorem State.goPart_im (k : LabelPart) (s : State) : (s.goPart k).im = s.im := by
  simp [State.im]
@[simp] theorem State.goPart_man (k : LabelPart) (s : State) : (s.goPart k).man = s.man := by
  simp [State.man]
@[simp] theorem State.goPart_bs (k : LabelPart) (s : State) : (s.goPart k).bs = s.bs := by
  simp [State.bs]
@[simp] theorem State.goPart_tarm (k : LabelPart) (s : State) : (s.goPart k).tarm = s.tarm := by
  simp [State.tarm]
@[simp] theorem State.goPart_barm (k : LabelPart) (s : State) : (s.goPart k).barm = s.barm := by
  simp [State.barm]
@[simp] theorem State.goPart_dout (k : LabelPart) (s : State) : (s.goPart k).dout = s.dout := by
  simp [State.dout]
@[simp] theorem State.goPart_oe (k : LabelPart) (s : State) : (s.goPart k).oe = s.oe := by
  simp [State.oe]

@[simp] theorem State.retire_wake (s : State) : (s.retire).wake = s.wake := by
  simp [State.wake]
@[simp] theorem State.retire_im (s : State) : (s.retire).im = s.im := by
  simp [State.im]
@[simp] theorem State.retire_man (s : State) : (s.retire).man = s.man := by
  simp [State.man]
@[simp] theorem State.retire_bs (s : State) : (s.retire).bs = s.bs := by
  simp [State.bs]
@[simp] theorem State.retire_tarm (s : State) : (s.retire).tarm = s.tarm := by
  simp [State.tarm]
@[simp] theorem State.retire_barm (s : State) : (s.retire).barm = s.barm := by
  simp [State.barm]
@[simp] theorem State.retire_dout (s : State) : (s.retire).dout = s.dout := by
  simp [State.dout]
@[simp] theorem State.retire_oe (s : State) : (s.retire).oe = s.oe := by
  simp [State.oe]

@[simp] theorem State.envTime_wake (k : Nat) (s : State) : (s.envTime k).wake = s.wake := by
  simp [State.wake]
@[simp] theorem State.envTime_im (k : Nat) (s : State) : (s.envTime k).im = s.im := by
  simp [State.im]
@[simp] theorem State.envTime_man (k : Nat) (s : State) : (s.envTime k).man = s.man := by
  simp [State.man]
@[simp] theorem State.envTime_bs (k : Nat) (s : State) : (s.envTime k).bs = s.bs := by
  simp [State.bs]
@[simp] theorem State.envTime_tarm (k : Nat) (s : State) : (s.envTime k).tarm = s.tarm := by
  simp [State.tarm]
@[simp] theorem State.envTime_barm (k : Nat) (s : State) : (s.envTime k).barm = s.barm := by
  simp [State.barm]
@[simp] theorem State.envTime_dout (k : Nat) (s : State) : (s.envTime k).dout = s.dout := by
  simp [State.dout]
@[simp] theorem State.envTime_oe (k : Nat) (s : State) : (s.envTime k).oe = s.oe := by
  simp [State.oe]

@[simp] theorem State.envDelayDone_wake (s : State) : (s.envDelayDone).wake = s.wake := by
  simp [State.wake]
@[simp] theorem State.envDelayDone_im (s : State) : (s.envDelayDone).im = s.im := by
  simp [State.im]
@[simp] theorem State.envDelayDone_man (s : State) : (s.envDelayDone).man = s.man := by
  simp [State.man]
@[simp] theorem State.envDelayDone_bs (s : State) : (s.envDelayDone).bs = s.bs := by
  simp [State.bs]
@[simp] theorem State.envDelayDone_tarm (s : State) : (s.envDelayDone).tarm = s.tarm := by
  simp [State.tarm]
@[simp] theorem State.envDelayDone_barm (s : State) : (s.envDelayDone).barm = s.barm := by
  simp [State.barm]
@[simp] theorem State.envDelayDone_dout (s : State) : (s.envDelayDone).dout = s.dout := by
  simp [State.dout]
@[simp] theorem State.envDelayDone_oe (s : State) : (s.envDelayDone).oe = s.oe := by
  simp [State.oe]

@[simp] theorem State.setScript_wake (es : List EnvEvent) (s : State) : (s.setScript es).wake = s.wake := by
  simp [State.wake]
@[simp] theorem State.setScript_im (es : List EnvEvent) (s : State) : (s.setScript es).im = s.im := by
  simp [State.im]
@[simp] theorem State.setScript_man (es : List EnvEvent) (s : State) : (s.setScript es).man = s.man := by
  simp [State.man]
@[simp] theorem State.setScript_bs (es : List EnvEvent) (s : State) : (s.setScript es).bs = s.bs := by
  simp [State.bs]
@[simp] theorem State.setScript_tarm (es : List EnvEvent) (s : State) : (s.setScript es).tarm = s.tarm := by
  simp [State.tarm]
@[simp] theorem State.setScript_barm (es : List EnvEvent) (s : State) : (s.setScript es).barm = s.barm := by
  simp [State.barm]
@[simp] theorem State.setScript_dout (es : List EnvEvent) (s : State) : (s.setScript es).dout = s.dout := by
  simp [State.dout]
@[simp] theorem State.setScript_oe (es : List EnvEvent) (s : State) : (s.setScript es).oe = s.oe := by
  simp [State.oe]

@[simp] theorem State.leaveCritical_wake (old : Bool) (s : State) : (s.leaveCritical old).wake = s.wake := by
  cases old <;> simp [State.leaveCritical]
@[simp] theorem State.leaveCritical_im (old : Bool) (s : State) : (s.leaveCritical old).im = old := by
  cases old <;> simp [State.leaveCritical]
@[simp] theorem State.leaveCritical_man (old : Bool) (s : State) : (s.leaveCritical old).man = s.man := by
  cases old <;> simp [State.leaveCritical]
@[simp] theorem State.leaveCritical_bs (old : Bool) (s : State) : (s.leaveCritical old).bs = s.bs := by
  cases old <;> simp [State.leaveCritical]
@[simp] theorem State.leaveCritical_tarm (old : Bool) (s : State) : (s.leaveCritical old).tarm = s.tarm := by
  cases old <;> simp [State.leaveCritical]
@[simp] theorem State.leaveCritical_barm (old : Bool) (s : State) : (s.leaveCritical old).barm = s.barm := by
  cases old <;> simp [State.leaveCritical]
@[simp] theorem State.leaveCritical_dout (old : Bool) (s : State) : (s.leaveCritical old).dout = s.dout := by
  cases old <;> simp [State.leaveCritical]
@[simp] theorem State.leaveCritical_oe (old : Bool) (s : State) : (s.leaveCritical old).oe = s.oe := by
  cases old <;> simp [State.leaveCritical]
end Sys2Proof.Machine
end

