-- ==== Sys2Proof/Laws/Memory.lean ====
section
/-! SUPPORT. The laws of the strip: reads after writes, the canonical form, the loops over all entries, and that a strip
is determined by what its entries read. -/

namespace Sys2Proof.Machine

@[simp] theorem Memory.read_nil (a : Nat) : Memory.read [] a = 0 := rfl

theorem Memory.wf_nil : Memory.wf [] := by simp [Memory.wf]

theorem Memory.wf_tail {c : Nat × Entry} {m : Memory} (h : Memory.wf (c :: m)) : Memory.wf m :=
  ⟨(List.pairwise_cons.1 h.1).2, fun d hd => h.2 d (List.mem_cons_of_mem _ hd)⟩

theorem Memory.wf_head_lt {c : Nat × Entry} {m : Memory} (h : Memory.wf (c :: m)) : ∀ d ∈ m, c.1 < d.1 :=
  (List.pairwise_cons.1 h.1).1

theorem Memory.wf_cons {c : Nat × Entry} {m : Memory} (hm : Memory.wf m) (hc : c.2 ≠ 0) (hlt : ∀ d ∈ m, c.1 < d.1) :
    Memory.wf (c :: m) := by
  refine ⟨List.pairwise_cons.2 ⟨hlt, hm.1⟩, ?_⟩
  intro d hd
  rcases List.mem_cons.1 hd with rfl | hd
  · exact hc
  · exact hm.2 d hd

/-- An address below every listed one reads 0. -/
theorem Memory.read_of_lt {m : Memory} {a : Nat} (h : ∀ d ∈ m, a < d.1) : Memory.read m a = 0 := by
  induction m with
  | nil => rfl
  | cons c m ih =>
    have hc : c.1 ≠ a := Nat.ne_of_gt (h c (List.mem_cons_self ..))
    simp only [Memory.read, hc, if_false]
    exact ih fun d hd => h d (List.mem_cons_of_mem _ hd)

/-- A listed entry is what its address reads. -/
theorem Memory.read_of_mem {m : Memory} (hm : Memory.wf m) {c : Nat × Entry} (hc : c ∈ m) :
    Memory.read m c.1 = c.2 := by
  induction m with
  | nil => cases hc
  | cons d m ih =>
    rcases List.mem_cons.1 hc with rfl | hc
    · simp [Memory.read]
    · have hlt := Memory.wf_head_lt hm c hc
      simp only [Memory.read, Nat.ne_of_lt hlt, if_false]
      exact ih (Memory.wf_tail hm) hc

/-- What an address reads is 0 or listed. -/
theorem Memory.read_eq_zero_or_mem (m : Memory) (a : Nat) : Memory.read m a = 0 ∨ (a, Memory.read m a) ∈ m := by
  induction m with
  | nil => exact .inl rfl
  | cons c m ih =>
    by_cases h : c.1 = a
    · right; subst h; simp [Memory.read]
    · simp only [Memory.read, h, if_false]
      rcases ih with h0 | hm
      · exact .inl h0
      · exact .inr (List.mem_cons_of_mem _ hm)

/-- Every entry of a written strip is the written one or an old one. -/
theorem Memory.mem_write {m : Memory} {a : Nat} {v : Entry} {c : Nat × Entry} (h : c ∈ Memory.write m a v) :
    c = (a, v) ∨ c ∈ m := by
  induction m with
  | nil =>
    simp only [Memory.write] at h
    split at h
    · cases h
    · exact .inl (by simpa using h)
  | cons d m ih =>
    simp only [Memory.write] at h
    split at h
    · split at h
      · exact .inr h
      · rcases List.mem_cons.1 h with h | h
        · exact .inl h
        · exact .inr h
    · split at h
      · split at h
        · exact .inr (List.mem_cons_of_mem _ h)
        · rcases List.mem_cons.1 h with h | h
          · exact .inl h
          · exact .inr (List.mem_cons_of_mem _ h)
      · rcases List.mem_cons.1 h with h | h
        · exact .inr (h ▸ List.mem_cons_self ..)
        · rcases ih h with h | h
          · exact .inl h
          · exact .inr (List.mem_cons_of_mem _ h)

/-- A write keeps the canonical form. -/
theorem Memory.wf_write {m : Memory} (hm : Memory.wf m) (a : Nat) (v : Entry) : Memory.wf (Memory.write m a v) := by
  induction m with
  | nil =>
    simp only [Memory.write]
    split
    · exact Memory.wf_nil
    · rename_i hv
      exact Memory.wf_cons Memory.wf_nil hv (by simp)
  | cons d m ih =>
    have hlt := Memory.wf_head_lt hm
    have hmt := Memory.wf_tail hm
    simp only [Memory.write]
    split
    · rename_i hlt'
      split
      · exact hm
      · rename_i hv
        refine Memory.wf_cons hm hv ?_
        intro e he
        rcases List.mem_cons.1 he with rfl | he
        · exact hlt'
        · exact Nat.lt_trans hlt' (hlt e he)
    · split
      · rename_i heq
        split
        · exact hmt
        · rename_i hv
          exact Memory.wf_cons hmt hv (fun e he => heq ▸ hlt e he)
      · rename_i h1 h2
        refine Memory.wf_cons (ih hmt) (hm.2 d (List.mem_cons_self ..)) ?_
        intro e he
        rcases Memory.mem_write he with rfl | he
        · show d.1 < a
          omega
        · exact hlt e he

/-- READ AFTER WRITE: the written entry reads the written value, every other entry what it read before. -/
theorem Memory.read_write {m : Memory} (hm : Memory.wf m) (a : Nat) (v : Entry) (b : Nat) :
    Memory.read (Memory.write m a v) b = if b = a then v else Memory.read m b := by
  induction m with
  | nil =>
    simp only [Memory.write]
    by_cases hv : v = 0
    · rw [if_pos hv, hv]
      simp
    · rw [if_neg hv]
      by_cases hb : b = a
      · simp [hb, Memory.read]
      · have hb' : a ≠ b := fun h => hb h.symm
        simp [hb, hb', Memory.read]
  | cons d m ih =>
    obtain ⟨k, w⟩ := d
    have hlt := Memory.wf_head_lt hm
    have hmt := Memory.wf_tail hm
    simp only [Memory.write]
    by_cases h1 : a < k
    · simp only [h1, if_true]
      by_cases hv : v = 0
      · simp only [hv, if_true]
        by_cases hb : b = a
        · subst hb
          simp only [if_true]
          exact Memory.read_of_lt fun e he => by
            rcases List.mem_cons.1 he with rfl | he
            · exact h1
            · exact Nat.lt_trans h1 (hlt e he)
        · simp [hb]
      · simp only [hv, if_false]
        by_cases hb : b = a
        · simp [hb, Memory.read]
        · have hb' : a ≠ b := fun h => hb h.symm
          simp [hb, hb', Memory.read]
    · simp only [h1, if_false]
      by_cases h2 : a = k
      · subst h2
        simp only [if_true]
        by_cases hv : v = 0
        · simp only [hv, if_true]
          by_cases hb : b = a
          · subst hb
            simp only [if_true]
            exact Memory.read_of_lt fun e he => hlt e he
          · have hb' : a ≠ b := fun h => hb h.symm
            simp [hb, hb', Memory.read]
        · simp only [hv, if_false]
          by_cases hb : b = a
          · simp [hb, Memory.read]
          · have hb' : a ≠ b := fun h => hb h.symm
            simp [hb, hb', Memory.read]
      · simp only [h2, if_false, Memory.read]
        rw [ih hmt]
        by_cases hk : k = b
        · subst hk
          have : k ≠ a := fun h => h2 h.symm
          simp [this]
        · simp [hk]

/-- Two strips in canonical form with equal reads are equal. -/
theorem Memory.ext_of_read {m₁ m₂ : Memory} (h₁ : Memory.wf m₁) (h₂ : Memory.wf m₂)
    (h : ∀ a, Memory.read m₁ a = Memory.read m₂ a) : m₁ = m₂ := by
  induction m₁ generalizing m₂ with
  | nil =>
    cases m₂ with
    | nil => rfl
    | cons d m₂ =>
      exfalso
      have := h d.1
      rw [Memory.read_of_mem h₂ (List.mem_cons_self ..)] at this
      exact h₂.2 d (List.mem_cons_self ..) this.symm
  | cons c m₁ ih =>
    cases m₂ with
    | nil =>
      exfalso
      have := h c.1
      rw [Memory.read_of_mem h₁ (List.mem_cons_self ..)] at this
      exact h₁.2 c (List.mem_cons_self ..) this
    | cons d m₂ =>
      have hc := h c.1
      have hd := h d.1
      rw [Memory.read_of_mem h₁ (List.mem_cons_self ..)] at hc
      rw [Memory.read_of_mem h₂ (List.mem_cons_self ..)] at hd
      have hc0 := h₁.2 c (List.mem_cons_self ..)
      have hd0 := h₂.2 d (List.mem_cons_self ..)
      have hkey : c.1 = d.1 := by
        rcases Nat.lt_trichotomy c.1 d.1 with hlt | heq | hgt
        · exfalso
          apply hc0
          rw [hc]
          exact Memory.read_of_lt fun e he => by
            rcases List.mem_cons.1 he with rfl | he
            · exact hlt
            · exact Nat.lt_trans hlt (Memory.wf_head_lt h₂ e he)
        · exact heq
        · exfalso
          apply hd0
          rw [← hd]
          exact Memory.read_of_lt fun e he => by
            rcases List.mem_cons.1 he with rfl | he
            · exact hgt
            · exact Nat.lt_trans hgt (Memory.wf_head_lt h₁ e he)
      have hval : c.2 = d.2 := by
        rw [hc, hkey, Memory.read_of_mem h₂ (List.mem_cons_self ..)]
      have hcd : c = d := Prod.ext hkey hval
      subst hcd
      congr 1
      refine ih (Memory.wf_tail h₁) (Memory.wf_tail h₂) fun a => ?_
      by_cases ha : c.1 = a
      · subst ha
        rw [Memory.read_of_lt (Memory.wf_head_lt h₁), Memory.read_of_lt (Memory.wf_head_lt h₂)]
      · have := h a
        simpa [Memory.read, ha] using this

/-! ### The loops over all entries -/

theorem Memory.mapFirst_zero (f : Nat → Entry → Entry) (m : Memory) : m.mapFirst 0 f = m := rfl

theorem Memory.mapFirst_succ (n : Nat) (f : Nat → Entry → Entry) (m : Memory) :
    m.mapFirst (n + 1) f = (m.mapFirst n f).write n (f n ((m.mapFirst n f).read n)) := by
  simp [Memory.mapFirst, List.range_succ]

theorem Memory.wf_mapFirst {m : Memory} (hm : Memory.wf m) (n : Nat) (f : Nat → Entry → Entry) :
    Memory.wf (m.mapFirst n f) := by
  induction n with
  | zero => exact hm
  | succ n ih => rw [Memory.mapFirst_succ]; exact Memory.wf_write ih _ _

/-- "for p = 0 to n - 1: entry p <- f p (entry p)": every entry below `n` is mapped once, the others are kept. -/
theorem Memory.read_mapFirst {m : Memory} (hm : Memory.wf m) (n : Nat) (f : Nat → Entry → Entry) (a : Nat) :
    (m.mapFirst n f).read a = if a < n then f a (m.read a) else m.read a := by
  induction n generalizing a with
  | zero => simp [Memory.mapFirst_zero]
  | succ n ih =>
    rw [Memory.mapFirst_succ, Memory.read_write (Memory.wf_mapFirst hm n f)]
    by_cases ha : a = n
    · subst ha
      simp [ih]
    · have : a < n + 1 ↔ a < n := by omega
      simp [ha, ih, this]

/-- Every listed entry of a mapped strip is an old one or the image of a read. -/
theorem Memory.mem_mapFirst {m : Memory} (hm : Memory.wf m) (n : Nat) (f : Nat → Entry → Entry) {c : Nat × Entry}
    (hc : c ∈ m.mapFirst n f) : c ∈ m ∨ (c.1 < n ∧ c.2 = f c.1 (m.read c.1)) := by
  have hread := Memory.read_of_mem (Memory.wf_mapFirst hm n f) hc
  rw [Memory.read_mapFirst hm] at hread
  by_cases h : c.1 < n
  · right
    simp only [h, if_true] at hread
    exact ⟨h, hread.symm⟩
  · left
    simp only [h, if_false] at hread
    have hne := (Memory.wf_mapFirst hm n f).2 c hc
    rcases Memory.read_eq_zero_or_mem m c.1 with h0 | hmem
    · exact absurd (hread ▸ h0) hne
    · rw [hread] at hmem
      exact hmem

/-- The downward loop of ROTATE over the entries 1 .. k, where the loop has still to run over 1 .. k. -/
theorem Memory.foldr_shift {m : Memory} (hm : Memory.wf m) (k : Nat) :
    Memory.wf ((List.range k).foldr (fun p m => m.write (p + 1) (m.read p)) m) ∧
      ∀ a, ((List.range k).foldr (fun p m => Memory.write m (p + 1) (Memory.read m p)) m).read a =
        if 0 < a ∧ a ≤ k then m.read (a - 1) else m.read a := by
  induction k generalizing m with
  | zero => exact ⟨hm, fun a => by simp; omega⟩
  | succ k ih =>
    rw [List.range_succ, List.foldr_append]
    simp only [List.foldr_cons, List.foldr_nil]
    obtain ⟨hwf, hread⟩ := ih (Memory.wf_write hm (k + 1) (m.read k))
    refine ⟨hwf, fun a => ?_⟩
    rw [hread, Memory.read_write hm, Memory.read_write hm]
    by_cases h1 : 0 < a ∧ a ≤ k
    · have h2 : a - 1 ≠ k + 1 := by omega
      have h3 : 0 < a ∧ a ≤ k + 1 := by omega
      simp [h1, h2, h3]
    · by_cases h2 : a = k + 1
      · subst h2
        simp
      · have h3 : ¬ (0 < a ∧ a ≤ k + 1) := by omega
        simp [h1, h2, h3]

theorem Memory.wf_shiftUp {m : Memory} (hm : Memory.wf m) (n : Nat) : Memory.wf (m.shiftUp n) :=
  (Memory.foldr_shift hm (n - 1)).1

/-- The downward loop of ROTATE: entries 1 .. n - 1 take the old entry below them. -/
theorem Memory.read_shiftUp {m : Memory} (hm : Memory.wf m) (n a : Nat) :
    (m.shiftUp n).read a = if 0 < a ∧ a ≤ n - 1 then m.read (a - 1) else m.read a :=
  (Memory.foldr_shift hm (n - 1)).2 a

theorem Memory.wf_rotate {s : State} (hm : s.strip.wf) : s.rotateStrip.strip.wf :=
  Memory.wf_write (Memory.wf_shiftUp hm _) _ _

/-- ROTATE: the new entry p is the old entry (p - 1) mod N. -/
theorem Memory.read_rotate {s : State} (hm : s.strip.wf) (a : Nat) :
    s.rotateStrip.strip.read a =
      if a = 0 then s.strip.read (s.par.n - 1)
      else if a < s.par.n then s.strip.read (a - 1) else s.strip.read a := by
  show (Memory.write _ _ _).read a = _
  rw [Memory.read_write (Memory.wf_shiftUp hm _), Memory.read_shiftUp hm]
  by_cases h0 : a = 0
  · simp [h0]
  · by_cases h1 : a < s.par.n
    · have : 0 < a ∧ a ≤ s.par.n - 1 := by omega
      simp [h0, h1, this]
    · have : ¬ (0 < a ∧ a ≤ s.par.n - 1) := by omega
      simp [h0, h1, this]

end Sys2Proof.Machine
end

