-- ==== Sys2Proof/Laws/Ops.lean ====
section
/-! SUPPORT. What each shared operation can do, said once: sequencing, the loops, the generator, the pixel store, the
waits, and the algebra of STAT's bits. -/

namespace Sys2Proof.Machine

/-! ### Sequencing -/

@[simp] theorem andThen_next (s : State) (f : State → Result) : andThen (.next s) f = f s := rfl
@[simp] theorem andThen_refused (q : Refusal) (f : State → Result) : andThen (.refused q) f = .refused q := rfl

/-- A sequence completes exactly when both parts do. -/
theorem andThen_eq_next {r : Result} {f : State → Result} {t : State} :
    andThen r f = .next t ↔ ∃ s, r = .next s ∧ f s = .next t := by
  cases r with
  | next s => simp [andThen]
  | fault e => cases e
  | refused q => simp [andThen]

@[simp] theorem forEach_nil (f : Nat → State → Result) (s : State) : forEach f [] s = .next s := rfl
@[simp] theorem forEach_cons (f : Nat → State → Result) (p : Nat) (ps : List Nat) (s : State) :
    forEach f (p :: ps) s = andThen (f p s) (forEach f ps) := rfl

theorem forEach_append (f : Nat → State → Result) (ps qs : List Nat) (s : State) :
    forEach f (ps ++ qs) s = andThen (forEach f ps s) (forEach f qs) := by
  induction ps generalizing s with
  | nil => rfl
  | cons p ps ih =>
    rw [List.cons_append, forEach_cons, forEach_cons]
    cases h : f p s with
    | next t => simp [ih]
    | fault e => cases e
    | refused q => rfl

/-- A loop whose body keeps `P` completes with `P`, if the body completes from every `P`. -/
theorem forEach_completes {P : Nat → State → Prop} {f : Nat → State → Result} (n : Nat) {s : State} (h0 : P 0 s)
    (hstep : ∀ p s, p < n → P p s → ∃ t, f p s = .next t ∧ P (p + 1) t) :
    ∃ t, forEach f (List.range n) s = .next t ∧ P n t := by
  induction n with
  | zero => exact ⟨s, rfl, h0⟩
  | succ n ih =>
    obtain ⟨t, ht, hP⟩ := ih fun p s hp => hstep p s (Nat.lt_succ_of_lt hp)
    obtain ⟨u, hu, hPu⟩ := hstep n t (Nat.lt_succ_self n) hP
    exact ⟨u, by rw [List.range_succ, forEach_append, ht]; simp [hu], hPu⟩

/-! ### The bits of STAT -/

theorem setBit8_setBit8 (v : BitVec 8) (i : Nat) (hi : i < 8) (b c : Bool) :
    setBit8 (setBit8 v i b) i c = setBit8 v i c := by
  apply stat_ext
  intro j hj
  rw [getLsbD_setBit8 _ _ hi, getLsbD_setBit8 _ _ hi, getLsbD_setBit8 _ _ hi]
  by_cases h : j = i <;> simp [h]

theorem setBit8_comm (v : BitVec 8) (i j : Nat) (hi : i < 8) (hj : j < 8) (hne : i ≠ j) (b c : Bool) :
    setBit8 (setBit8 v i b) j c = setBit8 (setBit8 v j c) i b := by
  apply stat_ext
  intro k hk
  rw [getLsbD_setBit8 _ _ hj, getLsbD_setBit8 _ _ hi, getLsbD_setBit8 _ _ hi, getLsbD_setBit8 _ _ hj]
  by_cases h1 : k = i
  · have : k ≠ j := fun h => hne (h1 ▸ h)
    subst h1
    simp [this]
  · simp [h1]

theorem setBit8_self (v : BitVec 8) (i : Nat) (hi : i < 8) : setBit8 v i (v.getLsbD i) = v := by
  apply stat_ext
  intro j hj
  rw [getLsbD_setBit8 _ _ hi]
  by_cases h : j = i <;> simp [h]

/-! ### The fields of entries, comets and triplets -/

@[simp] theorem entryHue_mkEntry (h : Byte) (l : Level) : entryHue (mkEntry h l) = h := by
  unfold entryHue mkEntry
  ext i hi
  simp only [BitVec.getElem_extractLsb', Nat.zero_add]
  rw [BitVec.getLsbD_append]
  simp [hi]

@[simp] theorem entryLevel_mkEntry (h : Byte) (l : Level) : entryLevel (mkEntry h l) = l := by
  unfold entryLevel mkEntry
  ext i hi
  simp only [BitVec.getElem_extractLsb']
  rw [BitVec.getLsbD_append]
  simp [hi]

theorem mkEntry_eta (e : Entry) : mkEntry (entryHue e) (entryLevel e) = e := by
  unfold entryHue entryLevel mkEntry
  apply BitVec.eq_of_getLsbD_eq
  intro i hi
  rw [BitVec.getLsbD_append]
  by_cases h : i < 8
  · simp [h]
  · simp only [h]
    rw [BitVec.getLsbD_extractLsb']
    have h1 : i - 8 < 3 := by omega
    have h2 : 8 + (i - 8) = i := by omega
    simp [h1, h2]

/-- Two entries with the same fields are the same. -/
theorem entry_ext {e f : Entry} (hh : entryHue e = entryHue f) (hl : entryLevel e = entryLevel f) : e = f := by
  rw [← mkEntry_eta e, ← mkEntry_eta f, hh, hl]

@[simp] theorem entryHue_withHue (h : Byte) (e : Entry) : entryHue (withHue h e) = h := by simp [withHue]
@[simp] theorem entryLevel_withHue (h : Byte) (e : Entry) : entryLevel (withHue h e) = entryLevel e := by simp [withHue]
@[simp] theorem entryHue_withLevel (l : Level) (e : Entry) : entryHue (withLevel l e) = entryHue e := by simp [withLevel]
@[simp] theorem entryLevel_withLevel (l : Level) (e : Entry) : entryLevel (withLevel l e) = l := by simp [withLevel]
@[simp] theorem entryHue_zero : entryHue 0 = 0 := rfl
@[simp] theorem entryLevel_zero : entryLevel 0 = 0 := rfl

@[simp] theorem cometIdx_mkComet (h i : Byte) : cometIdx (mkComet h i) = i := by
  unfold cometIdx mkComet
  ext k hk
  simp only [BitVec.getElem_extractLsb', Nat.zero_add]
  rw [BitVec.getLsbD_append]
  simp [hk]

@[simp] theorem cometHue_mkComet (h i : Byte) : cometHue (mkComet h i) = h := by
  unfold cometHue mkComet
  ext k hk
  simp only [BitVec.getElem_extractLsb']
  rw [BitVec.getLsbD_append]
  simp [hk]

@[simp] theorem blue_mkRgb (r g b : Byte) : blue (mkRgb r g b) = b := by
  unfold blue mkRgb
  ext k hk
  simp only [BitVec.getElem_extractLsb', Nat.zero_add]
  rw [BitVec.getLsbD_append]
  simp [hk]

@[simp] theorem green_mkRgb (r g b : Byte) : green (mkRgb r g b) = g := by
  unfold green mkRgb
  ext k hk
  simp only [BitVec.getElem_extractLsb']
  rw [BitVec.getLsbD_append, BitVec.getLsbD_append]
  have h1 : ¬ 8 + k < 8 := by omega
  simp [h1, hk]

@[simp] theorem red_mkRgb (r g b : Byte) : red (mkRgb r g b) = r := by
  unfold red mkRgb
  ext k hk
  simp only [BitVec.getElem_extractLsb']
  rw [BitVec.getLsbD_append, BitVec.getLsbD_append]
  have h1 : ¬ 16 + k < 8 := by omega
  have h2 : ¬ 16 + k - 8 < 8 := by omega
  have h3 : 16 + k - 8 - 8 = k := by omega
  simp [h1, h2, h3, hk]

theorem mkRgb_eta (c : Rgb) : mkRgb (red c) (green c) (blue c) = c := by
  unfold red green blue mkRgb
  apply BitVec.eq_of_getLsbD_eq
  intro i hi
  rw [BitVec.getLsbD_append, BitVec.getLsbD_append]
  by_cases h : i < 8
  · simp [h]
  · by_cases h' : i < 16
    · have h1 : i - 8 < 8 := by omega
      have h2 : 8 + (i - 8) = i := by omega
      simp [h, h1, h2]
    · have h1 : ¬ i - 8 < 8 := by omega
      have h2 : 16 + (i - 8 - 8) = i := by omega
      have h3 : i - 8 - 8 < 8 := by omega
      simp [h, h1, h2, h3]

/-! ### The pixel store and the generator -/

/-- A pixel in range is stored. -/
theorem State.storePixel_eq (s : State) (i : Nat) {h : Byte} {l : Level} (hh : h.toNat ≤ 191) (hl : l.toNat ≤ 6) :
    s.storePixel i h l = .next (s.putEntry (s.wrap i) (mkEntry h l)) := by
  simp [State.storePixel, unlessOutOfRange, Nat.not_lt.2 hh, Nat.not_lt.2 hl]

/-- All a pixel store can do when it completes. -/
theorem State.storePixel_next {s t : State} {i : Nat} {h : Byte} {l : Level} (e : s.storePixel i h l = .next t) :
    h.toNat ≤ 191 ∧ l.toNat ≤ 6 ∧ t = s.putEntry (s.wrap i) (mkEntry h l) := by
  unfold State.storePixel unlessOutOfRange at e
  split at e
  · cases e
  · split at e
    · cases e
    · cases e
      exact ⟨by omega, by omega, rfl⟩

/-- All the generator can do when it completes. -/
theorem prngNext_next {m : Nat} {s t : State} (e : prngNext m s = .next t) :
    m ≠ 0 ∧ t = { s with prng := prngUpd s.prng, rv := BitVec.ofNat 32 ((prngUpd s.prng).toNat % m) } := by
  unfold prngNext at e
  split at e
  · cases e
  · rename_i h
    cases e
    exact ⟨h, rfl⟩

theorem prngNext_eq {m : Nat} (hm : m ≠ 0) (s : State) :
    prngNext m s =
      .next { s with prng := prngUpd s.prng, rv := BitVec.ofNat 32 ((prngUpd s.prng).toNat % m) } := by
  simp [prngNext, hm]

/-- The value the generator returns, as a number. -/
theorem rv_toNat (v : Word) (m : Nat) : (BitVec.ofNat 32 (v.toNat % m)).toNat = v.toNat % m := by
  rw [BitVec.toNat_ofNat]
  exact Nat.mod_eq_of_lt (Nat.lt_of_le_of_lt (Nat.mod_le _ _) v.isLt)

/-! ### Waits -/

@[simp] theorem unlessCritical_of_im {s : State} (h : s.im = true) (r : Result) :
    unlessCritical s r = .refused .holdInCritical := by simp [unlessCritical, h]

@[simp] theorem unlessCritical_of_not_im {s : State} (h : s.im = false) (r : Result) :
    unlessCritical s r = r := by simp [unlessCritical, h]

/-- All a delay can do: complete, go on waiting, or make its request. -/
theorem State.waitDelay_next {u : DelayUnit} {n : Nat} {finish : State → State} {s t : State}
    (e : s.waitDelay u n finish = .next t) :
    (n = 0 ∧ t = finish (s.setHold .running)) ∨
      (n ≠ 0 ∧ s.hold = .delay u n ∧ s.env.dlyDone = true ∧
        t = finish { s with hold := .running, env := { s.env with dlyDone := false } }) ∨
      (n ≠ 0 ∧ s.hold = .delay u n ∧ s.env.dlyDone = false ∧ t = s) ∨
      (n ≠ 0 ∧ s.hold ≠ .delay u n ∧ t = { s with hold := .delay u n, env := { s.env with dlyDone := false } }) := by
  unfold State.waitDelay at e
  split at e
  · rename_i h
    cases e
    exact .inl ⟨h, rfl⟩
  · rename_i h
    split at e
    · rename_i hh
      split at e
      · rename_i hd
        cases e
        exact .inr (.inl ⟨h, hh, hd, rfl⟩)
      · rename_i hd
        cases e
        exact .inr (.inr (.inl ⟨h, hh, by simpa using hd, rfl⟩))
    · rename_i hh
      cases e
      exact .inr (.inr (.inr ⟨h, hh, rfl⟩))

/-- A delay is never refused outside the critical section. -/
theorem State.waitDelay_completes (u : DelayUnit) (n : Nat) (finish : State → State) (s : State) :
    ∃ t, s.waitDelay u n finish = .next t := by
  unfold State.waitDelay
  split
  · exact ⟨_, rfl⟩
  · split
    · split <;> exact ⟨_, rfl⟩
    · exact ⟨_, rfl⟩

end Sys2Proof.Machine
end

