-- ==== Sys2Proof/Laws/Environment.lean ====
section
/-! SUPPORT. All that a turn of the environment can do: STAT.WAKE set or kept, and the environment's own state. -/

namespace Sys2Proof.Machine

/-- `t` is `s` after some moves of the environment: only STAT.WAKE and the environment differ, and STAT.WAKE is not
cleared (60_exceptions.md R303). -/
structure EnvMoved (s t : State) : Prop where
  eq : t = { s with stat := t.stat, env := t.env }
  stat : t.stat = s.stat ∨ t.stat = setBit8 s.stat 0 true

theorem EnvMoved.refl (s : State) : EnvMoved s s := ⟨rfl, .inl rfl⟩

theorem EnvMoved.trans {s t u : State} (h : EnvMoved s t) (g : EnvMoved t u) : EnvMoved s u := by
  refine ⟨?_, ?_⟩
  · rw [g.eq, h.eq]
  · rcases g.stat with e | e <;> rcases h.stat with e' | e' <;> rw [e, e']
    · exact .inl rfl
    · exact .inr rfl
    · exact .inr rfl
    · exact .inr (setBit8_setBit8 _ 0 (by decide) _ _)

/-- STAT but for WAKE is kept. -/
theorem EnvMoved.stat_bit {s t : State} (h : EnvMoved s t) {j : Nat} (hj : j ≠ 0) :
    t.stat.getLsbD j = s.stat.getLsbD j := by
  rcases h.stat with e | e <;> rw [e]
  rw [getLsbD_setBit8 _ _ (by decide), if_neg hj]

/-- STAT.WAKE is not cleared. -/
theorem EnvMoved.wake {s t : State} (h : EnvMoved s t) (hw : s.wake = true) : t.wake = true := by
  unfold State.wake at *
  rcases h.stat with e | e <;> rw [e]
  · exact hw
  · rw [getLsbD_setBit8 _ _ (by decide), if_pos rfl]

theorem State.envTime_moved (k : Nat) (s : State) : EnvMoved s (s.envTime k) := ⟨rfl, .inl rfl⟩

theorem State.envBtn_moved (v : Bool) (s : State) : EnvMoved s (s.envBtn v) := by
  refine ⟨rfl, ?_⟩
  unfold State.envBtn
  simp only
  split
  · exact .inr rfl
  · exact .inl rfl

theorem State.envTick_moved (s : State) : EnvMoved s s.envTick := by
  refine ⟨rfl, ?_⟩
  unfold State.envTick
  simp only
  split
  · exact .inr rfl
  · exact .inl rfl

theorem State.envDelayDone_moved (s : State) : EnvMoved s s.envDelayDone := ⟨rfl, .inl rfl⟩

theorem State.setScript_moved (es : List EnvEvent) (s : State) : EnvMoved s (s.setScript es) := ⟨rfl, .inl rfl⟩

theorem envRun_moved (es : List EnvEvent) (s : State) : EnvMoved s (envRun es s) := by
  induction es generalizing s with
  | nil => exact s.setScript_moved _
  | cons e es ih =>
    cases e with
    | time k => exact (s.envTime_moved k).trans (ih _)
    | btn v => exact (s.envBtn_moved v).trans (ih _)
    | tick => exact s.envTick_moved.trans (ih _)
    | delayDone => exact s.envDelayDone_moved.trans (ih _)
    | reset => exact s.setScript_moved _
    | turnEnd => exact s.setScript_moved _

theorem State.envInside_moved (s : State) : EnvMoved s s.envInside := envRun_moved _ _

theorem State.envFair_moved (s : State) : EnvMoved s s.envFair := by
  have h : EnvMoved s ((s.envTime 1).envDelayDone) := (s.envTime_moved 1).trans (State.envDelayDone_moved _)
  refine h.trans ⟨rfl, ?_⟩
  unfold State.envFair
  simp only
  split
  · exact (State.envTick_moved _).stat
  · exact .inl rfl

/-- A turn that meets no reset leaves none behind. -/
theorem envRun_script {es : List EnvEvent} (h : .reset ∉ es) (s : State) : .reset ∉ (envRun es s).env.script := by
  induction es generalizing s with
  | nil => simp [envRun, State.setScript]
  | cons e es ih =>
    have h' : .reset ∉ es := fun hm => h (List.mem_cons_of_mem _ hm)
    cases e with
    | time k => exact ih h' _
    | btn v => exact ih h' _
    | tick => exact ih h' _
    | delayDone => exact ih h' _
    | reset => exact absurd (List.mem_cons_self ..) h
    | turnEnd => exact h'

/-- A turn after a move of CORE is moves of the environment, or those and then a reset. -/
theorem State.envTurn_cases (s : State) :
    EnvMoved s s.envTurn ∨ ∃ u, EnvMoved s u ∧ s.envTurn = u.powerOn := by
  unfold State.envTurn
  split
  · exact .inl s.envFair_moved
  · unfold State.takeReset
    split
    · exact .inr ⟨_, s.envInside_moved.trans (State.setScript_moved _ _), rfl⟩
    · exact .inl s.envInside_moved

/-- A turn without a reset in its script is moves of the environment. -/
theorem State.envTurn_moved {s : State} (h : .reset ∉ s.env.script) : EnvMoved s s.envTurn := by
  unfold State.envTurn
  split
  · exact s.envFair_moved
  · have := envRun_script h s
    unfold State.takeReset
    split
    · rename_i he
      rw [show s.envInside = envRun s.env.script s from rfl] at he
      rw [he] at this
      exact absurd (List.mem_cons_self ..) this
    · exact s.envInside_moved

end Sys2Proof.Machine
end

