-- ==== Sys2Proof/Laws/Strip.lean ====
section
/-! SUPPORT. The strip stays in range under every operation that writes it. -/

namespace Sys2Proof.Machine

theorem StripInRange.write {p : Config.Params} {m : Memory} (h : StripInRange p m) {a : Nat} {v : Entry} (ha : a < p.n)
    (hh : (entryHue v).toNat ≤ 191) (hl : (entryLevel v).toNat ≤ 6) : StripInRange p (m.write a v) := by
  intro c hc
  rcases Memory.mem_write hc with rfl | hc
  · exact ⟨ha, hh, hl⟩
  · exact h c hc

/-- Every entry of a strip in range reads in range. -/
theorem StripInRange.read {p : Config.Params} {m : Memory} (h : StripInRange p m) (a : Nat) :
    (entryHue (m.read a)).toNat ≤ 191 ∧ (entryLevel (m.read a)).toNat ≤ 6 := by
  rcases Memory.read_eq_zero_or_mem m a with h0 | hm
  · rw [h0]; decide
  · exact (h _ hm).2

/-- An entry at N or above reads 0 in a strip in range. -/
theorem StripInRange.read_above {p : Config.Params} {m : Memory} (h : StripInRange p m) {a : Nat} (ha : p.n ≤ a) :
    m.read a = 0 := by
  rcases Memory.read_eq_zero_or_mem m a with h0 | hm
  · exact h0
  · exact absurd (h _ hm).1 (by simp; omega)

theorem StripInRange.mapFirst {p : Config.Params} {m : Memory} (h : StripInRange p m) {n : Nat} (hn : n ≤ p.n)
    {f : Nat → Entry → Entry}
    (hf : ∀ i e, i < n → (entryHue e).toNat ≤ 191 → (entryLevel e).toNat ≤ 6 →
      (entryHue (f i e)).toNat ≤ 191 ∧ (entryLevel (f i e)).toNat ≤ 6) : StripInRange p (m.mapFirst n f) := by
  induction n with
  | zero => exact h
  | succ n ih =>
    rw [Memory.mapFirst_succ]
    have hm := ih (by omega) fun i e hi => hf i e (by omega)
    have hr := hm.read n
    exact hm.write (by omega) (hf n _ (by omega) hr.1 hr.2).1 (hf n _ (by omega) hr.1 hr.2).2

theorem StripInRange.shiftUp {p : Config.Params} {m : Memory} (h : StripInRange p m) {n : Nat} (hn : n ≤ p.n) :
    StripInRange p (m.shiftUp n) := by
  unfold Memory.shiftUp
  have key : ∀ k, k ≤ n - 1 →
      ∀ m : Memory, StripInRange p m →
        StripInRange p ((List.range k).foldr (fun q m => m.write (q + 1) (m.read q)) m) := by
    intro k
    induction k with
    | zero => intro _ m hm; exact hm
    | succ k ih =>
      intro hk m hm
      rw [List.range_succ, List.foldr_append]
      refine ih (by omega) _ ?_
      exact hm.write (by omega) (hm.read k).1 (hm.read k).2
  exact key _ (Nat.le_refl _) _ h

theorem StripInRange.dim {e : Entry} (hh : (entryHue e).toNat ≤ 191) (hl : (entryLevel e).toNat ≤ 6) :
    (entryHue (dimEntry e)).toNat ≤ 191 ∧ (entryLevel (dimEntry e)).toNat ≤ 6 := by
  unfold dimEntry
  split
  · exact ⟨hh, hl⟩
  · rename_i h0
    simp only [entryHue_withLevel, entryLevel_withLevel]
    refine ⟨hh, ?_⟩
    generalize entryLevel e = l at *
    revert l
    decide

/-- A dimmed entry: the hue kept, the level one lower, 0 staying 0 (42_pixel_strip.md R167). -/
theorem dimEntry_eq (e : Entry) :
    dimEntry e = mkEntry (entryHue e) (BitVec.ofNat 3 ((entryLevel e).toNat - 1)) := by
  unfold dimEntry
  split
  · rename_i h
    refine entry_ext (by simp) ?_
    simp [h]
  · rename_i h
    refine entry_ext (by simp) ?_
    simp only [entryLevel_withLevel, entryLevel_mkEntry]
    generalize entryLevel e = l at *
    revert l
    decide

/-- The strip of a state, its form and its range, as one property that the operations keep. -/
structure StripOk (s : State) : Prop where
  wf : s.strip.wf
  range : StripInRange s.par s.strip

theorem StripOk.putEntry {s : State} (h : StripOk s) {a : Nat} {e : Entry} (ha : a < s.par.n)
    (hh : (entryHue e).toNat ≤ 191) (hl : (entryLevel e).toNat ≤ 6) : StripOk (s.putEntry a e) :=
  ⟨Memory.wf_write h.wf _ _, h.range.write ha hh hl⟩

theorem StripOk.fade {s : State} (h : StripOk s) : StripOk s.fadeStrip :=
  ⟨Memory.wf_mapFirst h.wf _ _, h.range.mapFirst (Nat.le_refl _) fun _ _ _ hh hl => StripInRange.dim hh hl⟩

theorem StripOk.clear {s : State} (h : StripOk s) : StripOk s.clearStrip :=
  ⟨Memory.wf_mapFirst h.wf _ _,
    h.range.mapFirst (Nat.le_refl _) fun _ _ _ hh _ => by simpa using hh⟩

theorem StripOk.rotate {s : State} (h : StripOk s) (hn : 1 ≤ s.par.n) : StripOk s.rotateStrip :=
  ⟨Memory.wf_rotate h.wf,
    (h.range.shiftUp (Nat.le_refl _)).write (by omega) (h.range.read _).1 (h.range.read _).2⟩

/-- FILL in range completes, and every entry below N is the pair. -/
theorem State.fillStrip_eq (s : State) {h : Byte} {l : Level} (hh : h.toNat ≤ 191) (hl : l.toNat ≤ 6) :
    s.fillStrip h l = .next { s with strip := s.strip.mapFirst s.par.n fun _ _ => mkEntry h l } := by
  have h1 : ¬ 191 < h.toNat := by omega
  have h2 : ¬ 6 < l.toNat := by omega
  simp [State.fillStrip, unlessOutOfRange, h1, h2]

theorem State.wrap_lt {s : State} (hn : 1 ≤ s.par.n) (i : Nat) : s.wrap i < s.par.n := Nat.mod_lt _ (by omega)

/-- An index already below N is not changed by the reduction (20_memory.md R73). -/
theorem State.wrap_of_lt {s : State} {i : Nat} (h : i < s.par.n) : s.wrap i = i := Nat.mod_eq_of_lt h

end Sys2Proof.Machine
end

