-- ==== Sys2Proof/Laws/Transmitter.lean ====
section
/-! SUPPORT. All that the sending operations do: the state after each as one record update, the symbols and segments they
append, and what the LED chain makes of them. -/

namespace Sys2Proof.Machine

/-- The record after pulses with tight gaps. -/
def Line.sendBits (oe : Bool) (window : Nat) (bs : List Bool) (l : Line) : Line :=
  bs.foldl (fun l b => l.pulse oe window b true) l

@[simp] theorem Line.sendBits_nil (oe : Bool) (w : Nat) (l : Line) : l.sendBits oe w [] = l := rfl
@[simp] theorem Line.sendBits_cons (oe : Bool) (w : Nat) (b : Bool) (bs : List Bool) (l : Line) :
    l.sendBits oe w (b :: bs) = (l.pulse oe w b true).sendBits oe w bs := rfl

theorem Line.sendBits_append (oe : Bool) (w : Nat) (bs cs : List Bool) (l : Line) :
    l.sendBits oe w (bs ++ cs) = (l.sendBits oe w bs).sendBits oe w cs := by
  simp [Line.sendBits, List.foldl_append]

/-! ### STAT after a sending operation -/

theorem State.setIm_of_im {s : State} {b : Bool} (h : s.im = b) : s.setIm b = s := by
  subst h
  show { s with stat := setBit8 s.stat 1 (s.stat.getLsbD 1) } = s
  rw [setBit8_self _ _ (by decide)]

/-- DOUT written low. -/
def dropDout (v : BitVec 8) : BitVec 8 := setBit8 v 6 false

theorem dropDout_dropDout (v : BitVec 8) : dropDout (dropDout v) = dropDout v :=
  setBit8_setBit8 v 6 (by decide) _ _

theorem dropDout_setBit8_1 (v : BitVec 8) (b : Bool) : dropDout (setBit8 v 1 b) = setBit8 (dropDout v) 1 b :=
  setBit8_comm v 1 6 (by decide) (by decide) (by decide) _ _

/-- Bit 7 of STAT is no matter of DOUT. -/
@[simp] theorem getElem_dropDout (v : BitVec 8) : (dropDout v)[7] = v[7] := by
  simp [dropDout]

/-- A pulse as one record update. -/
theorem State.pulse_eq (b tight : Bool) (s : State) :
    s.pulse b tight = { s with stat := dropDout s.stat, line := s.line.pulse s.oe s.par.tWindowNs b tight } := by
  show { s with stat := setBit8 (setBit8 s.stat 6 true) 6 false, line := _ } = _
  rw [setBit8_setBit8 _ _ (by decide)]
  rfl

/-- Tight pulses as one record update. -/
theorem State.pulses_eq (bs : List Bool) (hbs : bs ≠ []) (s : State) :
    bs.foldl (fun s b => s.pulse b true) s =
      { s with stat := dropDout s.stat, line := s.line.sendBits s.oe s.par.tWindowNs bs } := by
  induction bs generalizing s with
  | nil => exact absurd rfl hbs
  | cons b bs ih =>
    by_cases h : bs = []
    · subst h
      simp [State.pulse_eq]
    · rw [List.foldl_cons, ih h, State.pulse_eq]
      simp [dropDout_dropDout, State.oe]

/-- The end of a sending operation inside a critical section. -/
theorem State.leaveCritical_true (s : State) : s.leaveCritical true = s.setIm true := rfl

/-- The end of a sending operation outside a critical section. -/
theorem State.leaveCritical_false (s : State) : s.leaveCritical false = (s.setIm false).elapse 0 := rfl

/-- The record after SENDBIT. -/
def Line.oneBit (oe : Bool) (w : Nat) (im : Bool) (b : Bool) (l : Line) : Line :=
  if im then l.pulse oe w b true else (l.pulse oe w b false).elapse oe 0

/-- The record after SENDBYTE. -/
def Line.oneByte (oe : Bool) (w : Nat) (im : Bool) (v : Byte) (l : Line) : Line :=
  if im then l.sendBits oe w (byteBits v)
  else (((l.sendBits oe w ((byteBits v).take 7))).pulse oe w (v.getLsbD 0) false).elapse oe 0

/-- The record after SENDCOLOR. -/
def Line.oneColour (oe : Bool) (w : Nat) (im order : Bool) (c : Rgb) (l : Line) : Line :=
  if im then l.sendBits oe w (colourBits order c) else (l.sendBits oe w (colourBits order c)).elapse oe 0

/-- All that SENDBIT does. -/
theorem State.sendBit_eq (b : Bool) (s : State) :
    s.sendBit b = { s with stat := dropDout s.stat, line := s.line.oneBit s.oe s.par.tWindowNs s.im b } := by
  unfold State.sendBit Line.oneBit
  cases him : s.im with
  | true =>
    rw [State.leaveCritical_true, State.setIm_of_im him, State.setIm_of_im (by simp [him]), State.pulse_eq]
    simp
  | false =>
    rw [State.leaveCritical_false, State.pulse_eq]
    have h : setBit8 (dropDout (setBit8 s.stat 1 true)) 1 false = dropDout s.stat := by
      rw [dropDout_setBit8_1, setBit8_setBit8 _ _ (by decide), ← dropDout_setBit8_1]
      have := setBit8_self s.stat 1 (by decide)
      rw [show s.stat.getLsbD 1 = false from him] at this
      rw [this]
    simp only [State.elapse, State.setIm, State.setStat]
    rw [h]
    simp [State.oe]

theorem byteBits_eq (v : Byte) : byteBits v = (byteBits v).take 7 ++ [v.getLsbD 0] := rfl

theorem State.bytePulses_true (v : Byte) (s : State) :
    s.bytePulses v true = { s with stat := dropDout s.stat, line := s.line.sendBits s.oe s.par.tWindowNs (byteBits v) } :=
  State.pulses_eq (byteBits v) (by simp [byteBits]) s

theorem State.bytePulses_false (v : Byte) (s : State) :
    s.bytePulses v false = { s with
      stat := dropDout s.stat
      line := (s.line.sendBits s.oe s.par.tWindowNs ((byteBits v).take 7)).pulse s.oe s.par.tWindowNs (v.getLsbD 0) false } := by
  have h := State.pulses_eq ((byteBits v).take 7) (by simp [byteBits]) s
  have h' : s.bytePulses v false =
      (((byteBits v).take 7).foldl (fun s b => s.pulse b true) s).pulse (v.getLsbD 0) false := rfl
  rw [h', h, State.pulse_eq]
  simp [dropDout_dropDout, State.oe]

/-- Closing the section that an operation opened itself leaves STAT as it was, but for DOUT. -/
theorem stat_reopen {s : State} (him : s.im = false) :
    setBit8 (dropDout (setBit8 s.stat 1 true)) 1 false = dropDout s.stat := by
  rw [dropDout_setBit8_1, setBit8_setBit8 _ _ (by decide), ← dropDout_setBit8_1]
  have := setBit8_self s.stat 1 (by decide)
  rw [show s.stat.getLsbD 1 = false from him] at this
  rw [this]

/-- All that SENDBYTE does. -/
theorem State.sendByte_eq (v : Byte) (s : State) :
    s.sendByte v = { s with stat := dropDout s.stat, line := s.line.oneByte s.oe s.par.tWindowNs s.im v } := by
  unfold State.sendByte Line.oneByte
  cases him : s.im with
  | true =>
    rw [State.leaveCritical_true, State.setIm_of_im him, State.bytePulses_true, State.setIm_of_im]
    · simp
    · show (dropDout s.stat).getLsbD 1 = true
      rw [dropDout, getLsbD_setBit8 _ _ (by decide)]
      exact him
  | false =>
    rw [State.leaveCritical_false, State.bytePulses_false]
    simp only [State.elapse, State.setIm, State.setStat]
    rw [stat_reopen him]
    simp [State.oe]

theorem State.sendByte_of_im (v : Byte) {s : State} (him : s.im = true) :
    s.sendByte v = { s with stat := dropDout s.stat, line := s.line.sendBits s.oe s.par.tWindowNs (byteBits v) } := by
  rw [State.sendByte_eq, Line.oneByte, him]
  rfl

theorem im_dropDout {s : State} (him : s.im = true) (l : Line) :
    ({ s with stat := dropDout s.stat, line := l } : State).im = true := by
  show (dropDout s.stat).getLsbD 1 = true
  rw [dropDout, getLsbD_setBit8 _ _ (by decide)]
  exact him

/-- Bytes sent inside a critical section. -/
theorem State.sendBytes_of_im (vs : List Byte) (hvs : vs ≠ []) {s : State} (him : s.im = true) :
    vs.foldl (fun s v => s.sendByte v) s =
      { s with stat := dropDout s.stat, line := s.line.sendBits s.oe s.par.tWindowNs (vs.flatMap byteBits) } := by
  induction vs generalizing s with
  | nil => exact absurd rfl hvs
  | cons v vs ih =>
    rw [List.foldl_cons, State.sendByte_of_im v him]
    by_cases h : vs = []
    · subst h
      simp
    · rw [ih h (im_dropDout him _)]
      simp [dropDout_dropDout, Line.sendBits_append, State.oe]

theorem wireBytes_ne_nil (order : Bool) (c : Rgb) : wireBytes order c ≠ [] := by
  unfold wireBytes
  split <;> simp

/-- All that SENDCOLOR does. -/
theorem State.sendColor_eq (c : Rgb) (s : State) :
    s.sendColor c = { s with stat := dropDout s.stat, line := s.line.oneColour s.oe s.par.tWindowNs s.im s.order c } := by
  unfold State.sendColor Line.oneColour
  rw [State.sendBytes_of_im _ (wireBytes_ne_nil _ _) (by simp)]
  cases him : s.im with
  | true =>
    rw [State.leaveCritical_true, State.setIm_of_im him, State.setIm_of_im (im_dropDout him _)]
    rfl
  | false =>
    rw [State.leaveCritical_false]
    simp only [State.elapse, State.setIm, State.setStat]
    rw [stat_reopen him]
    simp [State.oe, colourBits]

theorem State.sendPixel_of_im (c : Rgb) {s : State} (him : s.im = true) :
    s.sendPixel c = { s with
      rgb := c, stat := dropDout s.stat, line := s.line.sendBits s.oe s.par.tWindowNs (colourBits s.order c) } := by
  unfold State.sendPixel
  rw [State.sendColor_eq]
  have h : ({ s with rgb := c } : State).im = true := him
  rw [h]
  rfl

/-- Pixels sent inside a critical section. -/
theorem State.sendPixels_of_im (cs : List Rgb) (hcs : cs ≠ []) {s : State} (him : s.im = true) :
    cs.foldl State.sendPixel s = { s with
      rgb := cs.getLast hcs, stat := dropDout s.stat
      line := s.line.sendBits s.oe s.par.tWindowNs (frameBits s.order cs) } := by
  induction cs generalizing s with
  | nil => exact absurd rfl hcs
  | cons c cs ih =>
    rw [List.foldl_cons, State.sendPixel_of_im c him]
    by_cases h : cs = []
    · subst h
      simp [frameBits]
    · rw [ih h (im_dropDout (s := { s with rgb := c }) him _)]
      simp [frameBits, dropDout_dropDout, List.getLast_cons h, Line.sendBits_append, State.oe, State.order]

/-- The record after a frame. -/
def Line.frame (oe : Bool) (p : Config.Params) (bs : List Bool) (l : Line) : Line :=
  (((l.sendBits oe p.tWindowNs bs).elapse oe 0).elapse oe p.tLatchNs).mark .latch

/-- All that the frame of SHOW does: RGB holds the last triplet, STAT.IM and STAT.DOUT are 0. -/
theorem State.sendFrame_eq (cs : List Rgb) (hcs : cs ≠ []) (s : State) :
    s.sendFrame cs = { s with
      rgb := cs.getLast hcs, stat := setBit8 (dropDout s.stat) 1 false
      line := s.line.frame s.oe s.par (frameBits s.order cs) } := by
  unfold State.sendFrame
  rw [State.sendPixels_of_im cs hcs (by simp), State.leaveCritical_false]
  simp only [State.elapse, State.setIm, State.setStat, State.latchGap, dropDout_setBit8_1]
  rw [setBit8_setBit8 _ _ (by decide)]
  simp [Line.frame, State.oe, State.order]

/-- A frame writes RGB, STAT and the record only. -/
theorem State.sendFrame_frame (cs : List Rgb) (s : State) :
    s.sendFrame cs = { s with rgb := (s.sendFrame cs).rgb, stat := (s.sendFrame cs).stat, line := (s.sendFrame cs).line } := by
  by_cases h : cs = []
  · subst h
    rfl
  · rw [State.sendFrame_eq cs h]

/-- All that SHOW can do when it completes. -/
theorem State.showStrip_next {s t : State} (e : s.showStrip = .next t) :
    ∃ cs, s.frameColours = .ok cs ∧ t = s.sendFrame cs := by
  unfold State.showStrip at e
  split at e
  · cases e
  · rename_i cs h
    cases e
    exact ⟨cs, h, rfl⟩

theorem coloursOf_length {s : State} {ps : List Nat} {cs : List Rgb} (h : coloursOf s ps = .ok cs) :
    cs.length = ps.length := by
  induction ps generalizing cs with
  | nil => cases h; rfl
  | cons p ps ih =>
    unfold coloursOf at h
    split at h
    · cases h
    · split at h
      · cases h
      · rename_i cs' h'
        cases h
        simp [ih h']

theorem State.frameColours_length {s : State} {cs : List Rgb} (h : s.frameColours = .ok cs) :
    cs.length = s.par.n := by
  simpa using coloursOf_length h

/-- The triplet of pixel p of a frame is the conversion of entry p. -/
theorem coloursOf_get {s : State} {ps : List Nat} {cs : List Rgb} (h : coloursOf s ps = .ok cs) (k : Nat)
    (hk : k < ps.length) :
    convert s.cvar s.par.gamma (s.strip.read ps[k]) = .ok (cs.getD k 0) := by
  induction ps generalizing cs k with
  | nil => exact absurd hk (by simp)
  | cons p ps ih =>
    unfold coloursOf at h
    split at h
    · cases h
    · rename_i c hc
      split at h
      · cases h
      · rename_i cs' h'
        cases h
        cases k with
        | zero => simpa using hc
        | succ k =>
          have hk' : k < ps.length := by simpa using hk
          simpa using ih h' k hk'

/-- Conversions that all succeed make a frame. -/
theorem coloursOf_completes {s : State} {ps : List Nat}
    (h : ∀ p ∈ ps, ∃ c, convert s.cvar s.par.gamma (s.strip.read p) = .ok c) : ∃ cs, coloursOf s ps = .ok cs := by
  induction ps with
  | nil => exact ⟨[], rfl⟩
  | cons p ps ih =>
    obtain ⟨c, hc⟩ := h p (List.mem_cons_self ..)
    obtain ⟨cs, hcs⟩ := ih fun q hq => h q (List.mem_cons_of_mem _ hq)
    exact ⟨c :: cs, by simp [coloursOf, hc, hcs]⟩

/-- An entry in range converts. -/
theorem convert_completes (cvar : Bool) (gamma : List Byte) {e : Entry} (hh : (entryHue e).toNat ≤ 191)
    (hl : (entryLevel e).toNat ≤ 6) : ∃ c, convert cvar gamma e = .ok c := by
  unfold convert hue2rgb hue2rgbl
  have h1 : ¬ 191 < (entryHue e).toNat := by omega
  have h2 : ¬ 6 < (entryLevel e).toNat := by omega
  simp only [h1, h2, if_false]
  split
  · split <;> exact ⟨_, rfl⟩
  · exact ⟨_, rfl⟩

/-- SHOW of a strip in range completes. -/
theorem State.showStrip_completes {s : State} (h : StripInRange s.par s.strip) : ∃ t, s.showStrip = .next t := by
  obtain ⟨cs, hcs⟩ := coloursOf_completes (s := s) (ps := List.range s.par.n)
    fun p _ => convert_completes _ _ (h.read p).1 (h.read p).2
  exact ⟨_, by unfold State.showStrip State.frameColours; rw [hcs]⟩

/-! ### Symbols and segments -/

@[simp] theorem Line.pulse_syms (oe : Bool) (w : Nat) (b t : Bool) (l : Line) : (l.pulse oe w b t).syms = bitSymbol b :: l.syms := rfl
@[simp] theorem Line.elapse_syms (oe : Bool) (m : Nat) (l : Line) : (l.elapse oe m).syms = l.syms := rfl
@[simp] theorem Line.mark_syms (y : Symbol) (l : Line) : (l.mark y).syms = y :: l.syms := rfl
@[simp] theorem Line.mark_segs (y : Symbol) (l : Line) : (l.mark y).segs = l.segs := rfl

/-- The symbols of sent bits, newest first. -/
theorem Line.sendBits_syms (oe : Bool) (w : Nat) (bs : List Bool) (l : Line) :
    (l.sendBits oe w bs).syms = (bs.map bitSymbol).reverse ++ l.syms := by
  induction bs generalizing l with
  | nil => rfl
  | cons b bs ih => simp [ih]

theorem highTime_legal (b : Bool) (f : Nat) : highLegal b (highTime b f) := by
  unfold highLegal highTime Config.t1hMinNs Config.t0hLimitNs Config.ns
  cases b
  · have := Nat.mod_lt f (show 0 < 1000 * 500 - 1 by decide)
    simp only [Bool.false_eq_true, if_false]
    omega
  · simp

theorem lowTime_pos (t : Bool) (w f : Nat) : 0 < lowTime t w f := by
  unfold lowTime
  split <;> omega

theorem lowTime_tight {w : Nat} (hw : 0 < w) (f : Nat) : lowTime true w f < Config.ns w := by
  have := Nat.mod_lt f (show 0 < Config.ns w - 1 by unfold Config.ns; omega)
  simp only [lowTime, if_true]
  omega

theorem pulseSegs_append (ps qs : List (Nat × Nat)) : pulseSegs (ps ++ qs) = pulseSegs ps ++ pulseSegs qs := by
  simp [pulseSegs]

/-- Bits sent while the line is not driven leave W as it was. -/
@[simp] theorem Line.sendBits_segs_undriven (w : Nat) (bs : List Bool) (l : Line) :
    (l.sendBits false w bs).segs = l.segs := by
  induction bs generalizing l with
  | nil => rfl
  | cons b bs ih => exact ih _

/-- A frame sent while the line is not driven leaves W as it was. -/
@[simp] theorem Line.frame_segs_undriven (p : Config.Params) (bs : List Bool) (l : Line) :
    (l.frame false p bs).segs = l.segs :=
  Line.sendBits_segs_undriven _ _ _

/-- The segments of bits sent with tight gaps. -/
theorem Line.sendBits_segs {w : Nat} (hw : 0 < w) (bs : List Bool) (l : Line) :
    ∃ ps, PulsesFor w true bs ps ∧ (l.sendBits true w bs).segs = (pulseSegs ps).reverse ++ l.segs := by
  induction bs generalizing l with
  | nil => exact ⟨[], rfl, rfl⟩
  | cons b bs ih =>
    obtain ⟨ps, hps, hseg⟩ := ih (l.pulse true w b true)
    refine ⟨(highTime b (Config.freeDuration l.draws), lowTime true w (Config.freeDuration (l.draws + 1))) :: ps,
      ⟨highTime_legal _ _, lowTime_pos _ _ _, fun _ => lowTime_tight hw _, hps⟩, ?_⟩
    rw [Line.sendBits_cons, hseg]
    simp [pulseSegs, Line.pulse, ifDriven]

/-- The last low time of pulses may be made longer, when it need not be tight. -/
theorem PulsesFor.lengthen {w : Nat} {bs : List Bool} {ps : List (Nat × Nat)} {dh dl dl' : Nat} (hdl : dl ≤ dl')
    (h : PulsesFor w true bs (ps ++ [(dh, dl)])) : PulsesFor w false bs (ps ++ [(dh, dl')]) := by
  induction ps generalizing bs with
  | nil =>
    cases bs with
    | nil => cases h
    | cons b bs =>
      obtain ⟨h1, h2, _, h4⟩ := h
      have hbs : bs = [] := by
        cases bs with
        | nil => rfl
        | cons => exact h4.elim
      subst hbs
      exact ⟨h1, by omega, by simp, rfl⟩
  | cons q ps ih =>
    cases bs with
    | nil => cases h
    | cons b bs =>
      obtain ⟨h1, h2, h3, h4⟩ := h
      exact ⟨h1, h2, fun _ => h3 (.inr rfl), ih h4⟩

/-- The segments of a frame: tight pulses for its bits, the low time after the last at least the latch gap. -/
theorem Line.frame_segs {p : Config.Params} (hw : 0 < p.tWindowNs) {bs : List Bool} (hbs : bs ≠ []) (l : Line) :
    ∃ ps, PulsesFor p.tWindowNs false bs ps ∧ (∃ q, ps.getLast? = some q ∧ Config.ns p.tLatchNs ≤ q.2) ∧
      (l.frame true p bs).segs = (pulseSegs ps).reverse ++ l.segs := by
  obtain ⟨ps, hps, hseg⟩ := Line.sendBits_segs hw bs l
  rcases List.eq_nil_or_concat ps with rfl | ⟨init, ⟨dh, dl⟩, rfl⟩
  · cases bs with
    | nil => exact absurd rfl hbs
    | cons => exact hps.elim
  · rw [List.concat_eq_append] at hps hseg
    have hend : (l.frame true p bs).segs =
      extendSegs (Config.ns p.tLatchNs + Config.freeDuration ((l.sendBits true p.tWindowNs bs).draws + 1))
        (extendSegs (Config.ns 0 + Config.freeDuration (l.sendBits true p.tWindowNs bs).draws)
          (l.sendBits true p.tWindowNs bs).segs) := rfl
    rw [hend, hseg]
    generalize Config.freeDuration _ = d2
    generalize Config.freeDuration _ = d1
    refine ⟨init ++ [(dh, dl + d1 + (Config.ns p.tLatchNs + d2))], hps.lengthen (by omega), ⟨_, by simp; rfl, ?_⟩, ?_⟩
    · simp only; omega
    · simp [pulseSegs, extendSegs, Config.ns]

/-! ### What the LED chain makes of it -/

/-- A tight pulse is one bit received. -/
theorem chainOf_pulse {p : Config.Params} (hw : 0 < p.tWindowNs) (hl : p.tWindowNs ≤ p.tLatchNs) (order b : Bool)
    (l : Line) :
    chainOf p order (l.pulse true p.tWindowNs b true).segs =
      ⟨b :: (chainOf p order l.segs).bits, (chainOf p order l.segs).bad, (chainOf p order l.segs).shown⟩ := by
  have hlow := lowTime_tight hw (Config.freeDuration (l.draws + 1))
  have hhigh := highTime_legal b (Config.freeDuration l.draws)
  simp only [Line.pulse, ifDriven, if_true, chainOf]
  generalize lowTime true p.tWindowNs (Config.freeDuration (l.draws + 1)) = dl at *
  generalize highTime b (Config.freeDuration l.draws) = dh at *
  simp only [Config.ns] at hlow
  have h1 : ¬ 1000 * p.tLatchNs ≤ dl := by omega
  cases b
  · simp only [highLegal, Bool.false_eq_true, if_false] at hhigh
    have h2 : dh < 500000 := hhigh.2
    simp [chainStep, Config.ns, Config.t0hLimitNs, h2, h1, hlow]
  · simp only [highLegal, if_true] at hhigh
    have h2 : 625000 ≤ dh := hhigh
    have h3 : ¬ dh < 500000 := by omega
    simp [chainStep, Config.ns, Config.t0hLimitNs, Config.t1hMinNs, h2, h3, h1, hlow]

/-- Bits sent with tight gaps are received as they are. -/
theorem chainOf_sendBits {p : Config.Params} (hw : 0 < p.tWindowNs) (hl : p.tWindowNs ≤ p.tLatchNs) (order : Bool)
    (bs : List Bool) (l : Line) :
    chainOf p order (l.sendBits true p.tWindowNs bs).segs =
      ⟨bs.reverse ++ (chainOf p order l.segs).bits, (chainOf p order l.segs).bad, (chainOf p order l.segs).shown⟩ := by
  induction bs generalizing l with
  | nil => rfl
  | cons b bs ih =>
    rw [Line.sendBits_cons, ih, chainOf_pulse hw hl]
    simp

/-- A latch gap after a pulse latches what was received. -/
theorem chainOf_gap {p : Config.Params} (order : Bool) (e d : Nat) (r : List Segment) (hd : Config.ns p.tLatchNs ≤ e + d) :
    chainOf p order (extendSegs d (.low e :: r)) =
      ⟨[], false, latchShown p.n order (chainOf p order r)⟩ := by
  simp [extendSegs, chainOf, chainStep, hd]

theorem byteOfBits_byteBits (v : Byte) : byteOfBits (byteBits v) = v := by
  revert v
  decide

@[simp] theorem byteBits_length (v : Byte) : (byteBits v).length = 8 := rfl

theorem colourBits_length (order : Bool) (c : Rgb) : (colourBits order c).length = 24 := by
  unfold colourBits wireBytes
  split <;> simp

theorem frameBits_length (order : Bool) (cs : List Rgb) : (frameBits order cs).length = 24 * cs.length := by
  induction cs with
  | nil => rfl
  | cons c cs ih =>
    simp only [frameBits, List.flatMap_cons, List.length_append, List.length_cons] at ih ⊢
    rw [ih, colourBits_length]
    omega

/-- The chain reads back the triplet that was sent. -/
theorem rgbOfBits_colourBits (order : Bool) (c : Rgb) : rgbOfBits order (colourBits order c) = c := by
  have h (a b d : Byte) :
      (byteBits a ++ (byteBits b ++ byteBits d)).take 8 = byteBits a ∧
        ((byteBits a ++ (byteBits b ++ byteBits d)).drop 8).take 8 = byteBits b ∧
        ((byteBits a ++ (byteBits b ++ byteBits d)).drop 16).take 8 = byteBits d := ⟨rfl, rfl, rfl⟩
  unfold rgbOfBits colourBits wireBytes
  cases order
  · simp only [Bool.false_eq_true, if_false, List.flatMap_cons, List.flatMap_nil, List.append_nil]
    obtain ⟨h1, h2, h3⟩ := h (green c) (red c) (blue c)
    rw [h1, h2, h3, byteOfBits_byteBits, byteOfBits_byteBits, byteOfBits_byteBits, mkRgb_eta]
  · simp only [if_true, List.flatMap_cons, List.flatMap_nil, List.append_nil]
    obtain ⟨h1, h2, h3⟩ := h (red c) (green c) (blue c)
    rw [h1, h2, h3, byteOfBits_byteBits, byteOfBits_byteBits, byteOfBits_byteBits, mkRgb_eta]

/-- The chain reads back the triplets of a frame. -/
theorem rgbsOfBits_frameBits (order : Bool) (cs : List Rgb) :
    rgbsOfBits order cs.length (frameBits order cs) = cs := by
  induction cs with
  | nil => rfl
  | cons c cs ih =>
    simp only [frameBits, List.flatMap_cons, List.length_cons, rgbsOfBits] at ih ⊢
    have hlen := colourBits_length order c
    rw [List.take_left' hlen, List.drop_left' hlen, rgbOfBits_colourBits, ih]

/-- A frame that meets a chain with nothing received is displayed. -/
theorem chainOf_frame {p : Config.Params} (hp : p.Legal) (order : Bool) {cs : List Rgb} (hlen : cs.length = p.n)
    (l : Line) (hb : (chainOf p order l.segs).bits = []) (hbad : (chainOf p order l.segs).bad = false) :
    chainOf p order (l.frame true p (frameBits order cs)).segs = ⟨[], false, .colours cs⟩ := by
  have hn := hp.1.1
  have hw := hp.2.2.2.2.1
  have hbs : frameBits order cs ≠ [] := by
    intro h
    have := frameBits_length order cs
    rw [h, hlen] at this
    simp at this
    omega
  obtain ⟨ps, hps, hseg⟩ := Line.sendBits_segs hw.1 (frameBits order cs) l
  rcases List.eq_nil_or_concat ps with rfl | ⟨init, ⟨dh, dl⟩, rfl⟩
  · cases h : frameBits order cs with
    | nil => exact absurd h hbs
    | cons => rw [h] at hps; exact hps.elim
  have hch := chainOf_sendBits hw.1 hw.2 order (frameBits order cs) l
  have hend : (l.frame true p (frameBits order cs)).segs = extendSegs (Config.ns p.tLatchNs + Config.freeDuration _)
      (extendSegs (Config.ns 0 + Config.freeDuration _) (l.sendBits true p.tWindowNs (frameBits order cs)).segs) := rfl
  have hs : (l.sendBits true p.tWindowNs (frameBits order cs)).segs =
      .low dl :: .high dh :: ((pulseSegs init).reverse ++ l.segs) := by
    rw [hseg]
    simp [pulseSegs]
  rw [hend]
  rw [hs] at hch ⊢
  generalize (Segment.high dh :: ((pulseSegs init).reverse ++ l.segs)) = r at *
  generalize Config.freeDuration _ = d2
  generalize Config.freeDuration _ = d1
  simp only [chainOf, chainStep, hb, hbad, List.append_nil] at hch
  have hne : (frameBits order cs).reverse ≠ [] := by simpa using hbs
  have hr : (chainOf p order r).bits = (frameBits order cs).reverse ∧ (chainOf p order r).bad = false := by
    split at hch
    · exact absurd (congrArg Chain.bits hch).symm hne
    · split at hch
      · rw [hch]; exact ⟨rfl, rfl⟩
      · split at hch
        · rename_i h1
          rw [hch] at h1
          exact absurd h1.1 hne
        · have := congrArg Chain.bad hch
          simp at this
  have hx : extendSegs (Config.ns 0 + d1) (.low dl :: r) = .low (dl + (Config.ns 0 + d1)) :: r := rfl
  rw [hx, chainOf_gap _ _ _ _ (by omega)]
  rw [latchShown, hr.1, hr.2, if_neg hne, if_pos ⟨by simp [frameBits_length, hlen], rfl⟩, List.reverse_reverse, ← hlen,
    rgbsOfBits_frameBits]

end Sys2Proof.Machine
end

