-- ==== Sys2Proof/Laws/Frames.lean ====
section
/-! SUPPORT. What a frame leaves of the state around it, and the loops of the animation that end in one. -/

namespace Sys2Proof.Machine

/-- SHOW of a strip in range completes and sends its frame (40_transmitter.md R136). -/
theorem State.showStrip_frame {s : State} (hp : s.par.Legal) (h : StripInRange s.par s.strip) :
    ∃ t, s.showStrip = .next t ∧ FrameSent s t ∧ t = { s with stat := t.stat, rgb := t.rgb, line := t.line } := by
  have hn := hp.1.1
  obtain ⟨t, ht⟩ := State.showStrip_completes h
  obtain ⟨cs, hcs, rfl⟩ := State.showStrip_next ht
  have hlen := State.frameColours_length hcs
  have hne : cs ≠ [] := by
    rintro rfl
    simp at hlen
    omega
  have hbs : frameBits s.order cs ≠ [] := by
    intro h0
    have := frameBits_length s.order cs
    rw [h0, hlen] at this
    simp at this
    omega
  obtain ⟨ps, hps, hlast, hseg⟩ := Line.frame_segs hp.2.2.2.2.1.1 hbs s.line
  refine ⟨_, ht, ?_, ?_⟩
  · rw [State.sendFrame_eq cs hne]
    refine ⟨cs, ps, ⟨hlen, hps, hlast⟩, fun p hp => ?_, ?_, ?_, ?_, ?_, ?_, ?_⟩
    · have := coloursOf_get (s := s) (ps := List.range s.par.n) hcs p (by simpa using hp)
      simpa using this
    · cases hoe : s.oe <;> simp [State.wireHistory, State.driven, hoe, hseg]
    · simp [State.symbolHistory, Line.frame, Line.sendBits_syms]
    · rw [List.getLast_eq_getElem]
      have hlt : s.par.n - 1 < cs.length := by omega
      simp [hlen, List.getElem?_eq_getElem hlt]
    · show (setBit8 _ 1 false).getLsbD 1 = false
      rw [getLsbD_setBit8 _ _ (by decide), if_pos rfl]
    · show (setBit8 (dropDout s.stat) 1 false).getLsbD 6 = false
      rw [getLsbD_setBit8 _ _ (by decide), if_neg (by decide), dropDout, getLsbD_setBit8 _ _ (by decide), if_pos rfl]
    · intro j hj
      simp only [List.mem_cons, List.not_mem_nil, or_false, not_or] at hj
      show (setBit8 (dropDout s.stat) 1 false).getLsbD j = _
      rw [getLsbD_setBit8 _ _ (by decide), if_neg hj.1, dropDout, getLsbD_setBit8 _ _ (by decide), if_neg hj.2]
  · rw [State.sendFrame_eq cs hne]

/-- A good frame is one by CFG and the parameters alone. -/
theorem GoodFrame.congr {s s' : State} {cs : List Rgb} {ps : List (Nat × Nat)} (h : GoodFrame s cs ps)
    (hc : s'.cfg = s.cfg) (hp : s'.par = s.par) : GoodFrame s' cs ps := by
  obtain ⟨h1, h2, h3⟩ := h
  exact ⟨by rw [hp]; exact h1, by rw [hp, State.order, hc]; exact h2, by rw [hp]; exact h3⟩

/-- A frame sent between two states is one sent between any two with the same CFG, parameters, record and STAT on entry,
and the same strip, record, STAT and RGB on exit. -/
theorem FrameSent.congr {s s' t t' : State} (h : FrameSent s t) (hc : s'.cfg = s.cfg) (hp : s'.par = s.par)
    (hs : s'.stat = s.stat) (hl : s'.line = s.line) (ht : t'.strip = t.strip) (hl' : t'.line = t.line)
    (hs' : t'.stat = t.stat) (hr : t'.rgb = t.rgb) : FrameSent s' t' := by
  obtain ⟨cs, ps, h0, h2, h1, h3, h4, h5, h6, h7⟩ := h
  refine ⟨cs, ps, h0.congr hc hp, ?_, ?_, ?_, ?_, ?_, ?_, ?_⟩
  · intro p hpn
    rw [hp] at hpn ⊢
    rw [ht]
    simpa [State.cvar, hc] using h2 p hpn
  · simpa [State.wireHistory, State.driven, State.oe, hl, hl', hs] using h1
  · simpa [State.symbolHistory, State.order, hl, hl', hc] using h3
  · rw [hr, hp, h4]
  · simpa [State.im, hs'] using h5
  · simpa [State.dout, hs'] using h6
  · intro j hj
    rw [hs, hs']
    exact h7 j hj

end Sys2Proof.Machine
end

