-- ==== Sys2Proof/Laws/PerInstr.lean ====
section
/-! SUPPORT. A fact about every operation as syntax: the fields of its descriptor (30_encoding.md R102) are its operation
code and its operands as its format places them. -/

namespace Sys2Proof.Laws

/-- The two fields of a descriptor read back (30_encoding.md R102). -/
theorem fields_of_encode (i : Instr) : opField (encode i) = opcode i ∧ argField (encode i) = encodeArg i := by
  unfold opField argField encode
  exact ⟨BitVec.extractLsb'_append_eq_left, BitVec.extractLsb'_append_eq_right⟩

/-- `op` and `arg` of an operation's descriptor. -/
def EncodedFields.Statement (i : Instr) : Prop := opField (encode i) = opcode i ∧ argField (encode i) = encodeArg i

theorem EncodedFields.sendbit (b : BitVec 1) : EncodedFields.Statement (.sendbit b) := fields_of_encode _
theorem EncodedFields.sendbyte (v : Byte) : EncodedFields.Statement (.sendbyte v) := fields_of_encode _
theorem EncodedFields.sendcolor (r g b : Byte) : EncodedFields.Statement (.sendcolor r g b) := fields_of_encode _
theorem EncodedFields.latch : EncodedFields.Statement .latch := fields_of_encode _
theorem EncodedFields.showFrame : EncodedFields.Statement .showFrame := fields_of_encode _
theorem EncodedFields.hue2rgb (h : Byte) (l : Level) : EncodedFields.Statement (.hue2rgb h l) := fields_of_encode _
theorem EncodedFields.hue2rgbl (h : Byte) : EncodedFields.Statement (.hue2rgbl h) := fields_of_encode _
theorem EncodedFields.pxset (i h : Byte) (l : Level) : EncodedFields.Statement (.pxset i h l) := fields_of_encode _
theorem EncodedFields.pxget (i : Byte) : EncodedFields.Statement (.pxget i) := fields_of_encode _
theorem EncodedFields.fade : EncodedFields.Statement .fade := fields_of_encode _
theorem EncodedFields.clear : EncodedFields.Statement .clear := fields_of_encode _
theorem EncodedFields.fill (h : Byte) (l : Level) : EncodedFields.Statement (.fill h l) := fields_of_encode _
theorem EncodedFields.rotate : EncodedFields.Statement .rotate := fields_of_encode _
theorem EncodedFields.rnext (m : BitVec 24) : EncodedFields.Statement (.rnext m) := fields_of_encode _
theorem EncodedFields.fx0 : EncodedFields.Statement .fx0 := fields_of_encode _
theorem EncodedFields.fx1 : EncodedFields.Statement .fx1 := fields_of_encode _
theorem EncodedFields.fx2 : EncodedFields.Statement .fx2 := fields_of_encode _
theorem EncodedFields.fx3 : EncodedFields.Statement .fx3 := fields_of_encode _
theorem EncodedFields.fx4 : EncodedFields.Statement .fx4 := fields_of_encode _
theorem EncodedFields.fx5 : EncodedFields.Statement .fx5 := fields_of_encode _
theorem EncodedFields.fx6 : EncodedFields.Statement .fx6 := fields_of_encode _
theorem EncodedFields.fx7 : EncodedFields.Statement .fx7 := fields_of_encode _
theorem EncodedFields.anext : EncodedFields.Statement .anext := fields_of_encode _
theorem EncodedFields.atick : EncodedFields.Statement .atick := fields_of_encode _
theorem EncodedFields.greset : EncodedFields.Statement .greset := fields_of_encode _
theorem EncodedFields.gstep : EncodedFields.Statement .gstep := fields_of_encode _
theorem EncodedFields.gcatch : EncodedFields.Statement .gcatch := fields_of_encode _
theorem EncodedFields.grender : EncodedFields.Statement .grender := fields_of_encode _
theorem EncodedFields.gpoll : EncodedFields.Statement .gpoll := fields_of_encode _
theorem EncodedFields.ginit : EncodedFields.Statement .ginit := fields_of_encode _
theorem EncodedFields.wfe : EncodedFields.Statement .wfe := fields_of_encode _
theorem EncodedFields.armwake (n : BitVec 24) : EncodedFields.Statement (.armwake n) := fields_of_encode _
theorem EncodedFields.delayus (n : BitVec 24) : EncodedFields.Statement (.delayus n) := fields_of_encode _
theorem EncodedFields.delayms (n : BitVec 24) : EncodedFields.Statement (.delayms n) := fields_of_encode _
theorem EncodedFields.rdcnt : EncodedFields.Statement .rdcnt := fields_of_encode _
theorem EncodedFields.rdbtn : EncodedFields.Statement .rdbtn := fields_of_encode _
theorem EncodedFields.irqoff : EncodedFields.Statement .irqoff := fields_of_encode _
theorem EncodedFields.irqon : EncodedFields.Statement .irqon := fields_of_encode _
theorem EncodedFields.waitrel : EncodedFields.Statement .waitrel := fields_of_encode _
theorem EncodedFields.pincfg : EncodedFields.Statement .pincfg := fields_of_encode _

end Sys2Proof.Laws
end

