-- ==== Sys2Proof/Laws/Sequencer.lean ====
section
/-! SUPPORT. What issuing an operation at a label of the sequencer can do, and a turn of the environment once its script is
used up. -/

namespace Sys2Proof.Machine

/-- A state in which nothing waits goes to the label, at its first operation. -/
theorem State.goto_of_running {s : State} (h : s.hold = .running) (l : Label) :
    s.goto l = { s with seq := labelCode l, part := .first } := by simp [State.goto, h]

/-- While an operation holds, SEQ keeps its label (46_system.md R266). -/
theorem State.goto_of_holding {s : State} (h : s.hold ≠ .running) (l : Label) : s.goto l = s := by simp [State.goto, h]

/-- An operation that completes takes SEQ to the next label. -/
theorem issueThen_of_running {i : Instr} {l : Label} {s t : State} (e : exec i s = .next t) (h : t.hold = .running) :
    issueThen i l s = .next { t with seq := labelCode l, part := .first } := by
  simp [issueThen, e, State.goto_of_running h]

/-- An operation that holds leaves SEQ at its label. -/
theorem issueThen_of_holding {i : Instr} {l : Label} {s t : State} (e : exec i s = .next t) (h : t.hold ≠ .running) :
    issueThen i l s = .next t := by
  simp [issueThen, e, State.goto_of_holding h]

/-- All that issuing an operation can do when it answers a next state. -/
theorem issueThen_next {i : Instr} {l : Label} {s t : State} (e : issueThen i l s = .next t) :
    ∃ u, exec i s = .next u ∧ t = u.goto l := by
  obtain ⟨u, h1, h2⟩ := andThen_eq_next.1 e
  cases h2
  exact ⟨u, h1, rfl⟩

/-- With no client, CORE's move is that of the label SEQ. -/
theorem coreStep_of_label {s : State} (hp : s.pending = []) {l : Label} (hl : labelOf s.seq = some l) :
    coreStep s = seqLabel l s := by simp [coreStep, hp, seqStep, hl]

/-- A turn with the script used up is the fair continuation. -/
theorem State.envTurn_of_nil {s : State} (h : s.env.script = []) : s.envTurn = s.envFair := by
  simp [State.envTurn, h]

end Sys2Proof.Machine
end

