-- ==== Sys2Proof/Tests/Slice0.lean ====
section
/-! SUPPORT. Tests on fixed values. Expected results are those of spec/95_test_vectors.md,
  or are written out by hand from
the rule a comment names. -/

namespace Sys2Proof.Tests

open Sys2Proof.Machine

/-- The operation completes or holds, and its state passes `p`. -/
def completed (r : Result) (p : State → Bool) : Bool :=
  match r with
  | .next t => p t
  | .fault _ => false
  | .refused _ => false

/-- The operation is refused for the reason `q`. -/
def refusedFor (q : Refusal) (r : Result) : Bool :=
  match r with
  | .next _ => false
  | .fault _ => false
  | .refused q' => q' = q

/-- The reset state with `n` pixels. -/
def pixels (n : Nat) : State := State.resetOf { Config.reference with n := n }

/-- The reset state with these straps (bit 0 ENGINE, bit 1 ORDER, bit 2 CVAR). -/
def strapped (v : BitVec 3) : State := State.resetOf { Config.reference with straps := v }

/-- A state of the game on the reset state (95_test_vectors.md part 6). -/
def game (hunter deer : Byte) (dir : BitVec 1) (speed deadline : Word) : State :=
  { State.reset with hunter := hunter, deer := deer, dir := dir, speed := speed, deadline := deadline }

/-- The game's registers. -/
def gameOf (s : State) : Byte × Byte × BitVec 1 × Word × Word := (s.hunter, s.deer, s.dir, s.speed, s.deadline)

/-- The hues of the strip. -/
def hues (s : State) : List Nat := (List.range s.par.n).map fun p => (entryHue (s.strip.read p)).toNat

/-- The levels of the strip. -/
def levels (s : State) : List Nat := (List.range s.par.n).map fun p => (entryLevel (s.strip.read p)).toNat

/-- RGB as numbers. -/
def rgbOf (s : State) : List Nat := [(red s.rgb).toNat, (green s.rgb).toNat, (blue s.rgb).toNat]

/-- The symbols of bytes. -/
def bytesOf (vs : List Byte) : List Symbol := (vs.flatMap byteBits).map bitSymbol

/-! ### Operand domains (60_exceptions.md R291): each check refuses an ill-formed term -/

theorem test_hue_192_is_ill_formed :
    (Instr.hue2rgb 192 6).wellFormed = false ∧ (Instr.hue2rgb 191 6).wellFormed = true := by
  decide
theorem test_hue2rgbl_192_is_ill_formed :
    (Instr.hue2rgbl 192).wellFormed = false ∧ (Instr.hue2rgbl 191).wellFormed = true := by
  decide
theorem test_level_7_is_ill_formed :
    (Instr.hue2rgb 0 7).wellFormed = false ∧ (Instr.hue2rgb 0 6).wellFormed = true := by
  decide
theorem test_pxset_ill_formed :
    (Instr.pxset 3 192 6).wellFormed = false ∧ (Instr.pxset 3 0 7).wellFormed = false := by
  decide
theorem test_fill_ill_formed :
    (Instr.fill 200 6).wellFormed = false ∧ (Instr.fill 0 7).wellFormed = false := by
  decide
theorem test_zero_bound_is_ill_formed :
    (Instr.rnext 0).wellFormed = false ∧ (Instr.rnext 1).wellFormed = true := by
  decide
theorem test_zero_period_is_ill_formed :
    (Instr.armwake 0).wellFormed = false ∧ (Instr.armwake 1).wellFormed = true := by
  decide

/-! ### Every descriptor, written out from 30_encoding.md R101 to R110 -/

theorem test_decode_sendbit : decode 0x00000001 = .ok (.sendbit 1) ∧ encode (.sendbit 1) = 0x00000001 := by decide
theorem test_decode_sendbyte :
    decode 0x010000A5 = .ok (.sendbyte 0xA5) ∧ encode (.sendbyte 0xA5) = 0x010000A5 := by
  decide
theorem test_decode_sendcolor :
    decode 0x02123456 = .ok (.sendcolor 0x12 0x34 0x56) ∧ encode (.sendcolor 0x12 0x34 0x56) = 0x02123456 := by
  decide
theorem test_decode_latch : decode 0x03000000 = .ok .latch ∧ encode .latch = 0x03000000 := by decide
theorem test_decode_show : decode 0x04000000 = .ok .showFrame ∧ encode .showFrame = 0x04000000 := by decide
theorem test_decode_hue2rgb :
    decode 0x10000564 = .ok (.hue2rgb 100 5) ∧ encode (.hue2rgb 100 5) = 0x10000564 := by
  decide
theorem test_decode_hue2rgbl :
    decode 0x11000064 = .ok (.hue2rgbl 100) ∧ encode (.hue2rgbl 100) = 0x11000064 := by
  decide
theorem test_decode_pxset :
    decode 0x20FF06BF = .ok (.pxset 255 191 6) ∧ encode (.pxset 255 191 6) = 0x20FF06BF := by
  decide
theorem test_decode_pxget : decode 0x21130000 = .ok (.pxget 19) ∧ encode (.pxget 19) = 0x21130000 := by decide
theorem test_decode_fade : decode 0x22000000 = .ok .fade ∧ encode .fade = 0x22000000 := by decide
theorem test_decode_clear : decode 0x23000000 = .ok .clear ∧ encode .clear = 0x23000000 := by decide
theorem test_decode_fill : decode 0x24000601 = .ok (.fill 1 6) ∧ encode (.fill 1 6) = 0x24000601 := by decide
theorem test_decode_rotate : decode 0x25000000 = .ok .rotate ∧ encode .rotate = 0x25000000 := by decide
theorem test_decode_rnext :
    decode 0x30FFFFFF = .ok (.rnext 16777215) ∧ encode (.rnext 16777215) = 0x30FFFFFF := by
  decide
theorem test_decode_fx0 : decode 0x40000000 = .ok .fx0 ∧ encode .fx0 = 0x40000000 := by decide
theorem test_decode_fx1 : decode 0x41000000 = .ok .fx1 ∧ encode .fx1 = 0x41000000 := by decide
theorem test_decode_fx2 : decode 0x42000000 = .ok .fx2 ∧ encode .fx2 = 0x42000000 := by decide
theorem test_decode_fx3 : decode 0x43000000 = .ok .fx3 ∧ encode .fx3 = 0x43000000 := by decide
theorem test_decode_fx4 : decode 0x44000000 = .ok .fx4 ∧ encode .fx4 = 0x44000000 := by decide
theorem test_decode_fx5 : decode 0x45000000 = .ok .fx5 ∧ encode .fx5 = 0x45000000 := by decide
theorem test_decode_fx6 : decode 0x46000000 = .ok .fx6 ∧ encode .fx6 = 0x46000000 := by decide
theorem test_decode_fx7 : decode 0x47000000 = .ok .fx7 ∧ encode .fx7 = 0x47000000 := by decide
theorem test_decode_anext : decode 0x48000000 = .ok .anext ∧ encode .anext = 0x48000000 := by decide
theorem test_decode_atick : decode 0x49000000 = .ok .atick ∧ encode .atick = 0x49000000 := by decide
theorem test_decode_greset : decode 0x50000000 = .ok .greset ∧ encode .greset = 0x50000000 := by decide
theorem test_decode_gstep : decode 0x51000000 = .ok .gstep ∧ encode .gstep = 0x51000000 := by decide
theorem test_decode_gcatch : decode 0x52000000 = .ok .gcatch ∧ encode .gcatch = 0x52000000 := by decide
theorem test_decode_grender : decode 0x53000000 = .ok .grender ∧ encode .grender = 0x53000000 := by decide
theorem test_decode_gpoll : decode 0x54000000 = .ok .gpoll ∧ encode .gpoll = 0x54000000 := by decide
theorem test_decode_ginit : decode 0x55000000 = .ok .ginit ∧ encode .ginit = 0x55000000 := by decide
theorem test_decode_wfe : decode 0x60000000 = .ok .wfe ∧ encode .wfe = 0x60000000 := by decide
theorem test_decode_armwake : decode 0x61000040 = .ok (.armwake 64) ∧ encode (.armwake 64) = 0x61000040 := by decide
theorem test_decode_delayus : decode 0x62000118 = .ok (.delayus 280) ∧ encode (.delayus 280) = 0x62000118 := by decide
theorem test_decode_delayms : decode 0x6300000A = .ok (.delayms 10) ∧ encode (.delayms 10) = 0x6300000A := by decide
theorem test_decode_rdcnt : decode 0x64000000 = .ok .rdcnt ∧ encode .rdcnt = 0x64000000 := by decide
theorem test_decode_rdbtn : decode 0x65000000 = .ok .rdbtn ∧ encode .rdbtn = 0x65000000 := by decide
theorem test_decode_irqoff : decode 0x66000000 = .ok .irqoff ∧ encode .irqoff = 0x66000000 := by decide
theorem test_decode_irqon : decode 0x67000000 = .ok .irqon ∧ encode .irqon = 0x67000000 := by decide
theorem test_decode_waitrel : decode 0x68000000 = .ok .waitrel ∧ encode .waitrel = 0x68000000 := by decide
theorem test_decode_pincfg : decode 0x69000000 = .ok .pincfg ∧ encode .pincfg = 0x69000000 := by decide

set_option maxRecDepth 100000 in
/-- 95_test_vectors.md part 8. -/
theorem test_no_such_op :
    [0x05000000, 0x12000000, 0x26000000, 0x31000000, 0x4A000000, 0x56000000, 0x6A000000, 0x70000000,
      0xFF000000].map decode = List.replicate 9 (.error .reservedOp) := by
  decide
set_option maxRecDepth 100000 in
/-- 95_test_vectors.md parts 3, 4 and 8. -/
theorem test_must_be_zero_bits :
    [0x04000001, 0x00000002, 0x01000100, 0x66000001, 0x10000864, 0x11000100, 0x20030E40,
      0x21030001].map decode = List.replicate 8 (.error .reservedBits) := by
  decide
theorem test_table_word :
    decodeTableWord 32 0x20030640 = some (.pxset 3 64 6) ∧ decodeTableWord 32 0x20030E40 = none := by
  decide
/-- 30_encoding.md R119. -/
theorem test_written_form : written (.pxset 3 64 6) = "PXSET 3, 64, 6" ∧ written .showFrame = "SHOW" := by decide

/-! ### Parameters -/

theorem test_reference_is_legal : Config.reference.Legal := by decide
/-- The table of 41_color_model.md R151. -/
theorem test_gamma_reference :
    (gammaAt Config.gammaRef 31, gammaAt Config.gammaRef 36, gammaAt Config.gammaRef 47,
      gammaAt Config.gammaRef 62) = (62, 83, 142, 247) := by
  decide

/-! ### The transmitter (95_test_vectors.md part 2) -/

theorem test_sendbit_1 :
    completed (exec (.sendbit 1) State.reset) (fun t => t.symbolHistory = [.b1] && !t.dout && !t.im) = true := by
  decide
theorem test_sendbit_keeps_im :
    completed (exec (.sendbit 0) (State.reset.setIm true)) (fun t => t.symbolHistory = [.b0] && t.im) = true := by
  decide
theorem test_sendbyte_a5 :
    completed (exec (.sendbyte 0xA5) State.reset) (fun t => t.symbolHistory = [.b1, .b0, .b1, .b0, .b0, .b1, .b0,
      .b1]) = true := by
  decide
theorem test_sendcolor_grb :
    completed (exec (.sendcolor 0x12 0x34 0x56) State.reset) (fun t => t.symbolHistory = bytesOf [0x34, 0x12,
      0x56]) = true := by
  decide
theorem test_sendcolor_rgb :
    completed (exec (.sendcolor 0x12 0x34 0x56) (strapped 2)) (fun t => t.symbolHistory = bytesOf [0x12, 0x34,
      0x56]) = true := by
  decide
/-- 00_scope.md R23: H and L of one pulse, while the line is driven. -/
theorem test_wire_is_driven_after_pincfg :
    completed (exec (.sendbit 1) (State.reset.setOe true)) (fun t => t.wireHistory.length = 2 &&
      t.symbolHistory = [.b1]) = true := by
  decide
/-- 93_implementation_defined.md U12: STAT.OE is 0 at reset. -/
theorem test_undriven_wire_records_nothing :
    completed (exec (.sendbit 1) State.reset) (fun t => t.wireHistory = [] && t.symbolHistory = [.b1]) = true ∧
      completed (exec (.delayus 0) State.reset) (fun t => t.wireHistory = []) = true := by
  decide
theorem test_latch_requests_280_us :
    completed (exec .latch State.reset) (fun t => t.portDly = some (.us, 280) && t.symbolHistory = []) = true := by
  decide
theorem test_latch_completes :
    completed (exec .latch { State.reset with hold := .delay .us 280, env := ⟨true, 0, true, []⟩ })
      (fun t => t.symbolHistory = [.latch] && t.hold = .running) = true := by
  decide
theorem test_show_two_pixels :
    completed (exec .showFrame { pixels 2 with strip := [(0, mkEntry 0 6), (1, mkEntry 64 6)] })
      (fun t => t.symbolHistory = bytesOf [0, 255, 0, 255, 0, 0] ++ [.latch] && rgbOf t = [0, 255, 0] &&
      !t.im) = true := by
  decide
theorem test_show_linear :
    completed (exec .showFrame { State.resetOf { Config.reference with n := 1, straps := 4 } with strip := [(0,
      mkEntry 100 3)] }) (fun t => t.symbolHistory = bytesOf [0x6C, 0, 0x90] ++ [.latch] &&
      rgbOf t = [0, 108, 144]) = true := by
  decide

/-- One byte of pulses with highs of `d` ns and gaps of 600 ns, newest first. -/
def bytePulses (d : Nat) : List Segment :=
  (List.replicate 8 [Segment.low (Config.ns 600), .high (Config.ns d)]).flatten

/-- A frame of one pixel, newest first: three bytes of pulses, the last gap `z`. -/
def framePulses (a b c z : Nat) : List Segment :=
  .low (Config.ns z) :: (bytePulses c).tail ++ bytePulses b ++ bytePulses a

/-- Observer of 95_test_vectors.md part 2. -/
theorem test_observer_good_frame :
    (chainOf { Config.reference with
      n := 1 } false (framePulses 300 700 300 300000)).shown = .colours [mkRgb 255 0 0] := by
  decide
theorem test_observer_bad_high :
    (chainOf { Config.reference with n := 1 } false (framePulses 300 550 300 300000)).shown = .unspecified ∧
      (chainOf { Config.reference with
      n := 1 } false (framePulses 499 625 300 300000)).shown = .colours [mkRgb 255 0 0] := by
  decide
theorem test_observer_bad_gap :
    (chainOf { Config.reference with n := 1 } false (.low (Config.ns 300000)
      :: (bytePulses 300).tail ++ (.low (Config.ns 100000) :: (bytePulses 700).tail)
      ++ bytePulses 300)).shown = .unspecified := by
  decide
theorem test_observer_short_frame :
    (chainOf { Config.reference with n := 1 } false (.low (Config.ns 300000)
      :: (bytePulses 300).tail ++ bytePulses 700)).shown = .unspecified := by
  decide

/-! ### The colour model (part 3) -/

theorem test_hue2rgb_100_6 :
    completed (exec (.hue2rgb 100 6) State.reset) (fun t => rgbOf t = [0, 47, 83]) = true := by
  decide
theorem test_hue2rgb_160_4 :
    completed (exec (.hue2rgb 160 4) State.reset) (fun t => rgbOf t = [4, 0, 3]) = true := by
  decide
theorem test_hue2rgbl_100 :
    completed (exec (.hue2rgbl 100) State.reset) (fun t => rgbOf t = [0, 108, 144]) = true := by
  decide
theorem test_hue2rgbl_32 :
    completed (exec (.hue2rgbl 32) State.reset) (fun t => rgbOf t = [124, 128, 0]) = true := by
  decide
theorem test_convert_linear :
    convert true Config.gammaRef (mkEntry 100 3) = .ok (mkRgb 0 108 144) ∧
      convert true Config.gammaRef (mkEntry 100 0) = .ok 0 := by
  decide

/-! ### The strip (part 4) -/

theorem test_pxset_wraps :
    completed (exec (.pxset 255 5 6) (pixels 12)) (fun t => t.strip = [(3, mkEntry 5 6)]) = true := by
  decide
theorem test_pxset_16_is_entry_0 :
    completed (exec (.pxset 16 5 6) State.reset) (fun t => t.strip = [(0, mkEntry 5 6)]) = true := by
  decide
theorem test_pxget_19 :
    completed (exec (.pxget 19) { State.reset with strip := [(3, mkEntry 64 6)] }) (fun t => t.pxr = 0x640)
      = true := by
  decide
theorem test_fade :
    completed (exec .fade { pixels 5 with strip := [(0, mkEntry 9 6), (2, mkEntry 8 3), (3, mkEntry 7 1)] })
      (fun t => levels t = [5, 0, 2, 0, 0] && hues t = [9, 0, 8, 7, 0]) = true := by
  decide
theorem test_clear_keeps_hues :
    completed (exec .clear { pixels 6 with strip := [(0, mkEntry 45 6), (5, mkEntry 187 3)] })
      (fun t => levels t = [0, 0, 0, 0, 0, 0] && hues t = [45, 0, 0, 0, 0, 187]) = true := by
  decide
theorem test_fill :
    completed (exec (.fill 1 6) (pixels 3)) (fun t => hues t = [1, 1, 1] && levels t = [6, 6, 6]) = true := by
  decide
theorem test_fill_level_0 :
    completed (exec (.fill 100 0) (pixels 3)) (fun t => hues t = [100, 100, 100] && levels t = [0, 0, 0]) = true := by
  decide
theorem test_rotate :
    completed (exec .rotate { State.reset with strip := [(14, mkEntry 7 2), (15, mkEntry 8 3)] })
      (fun t => t.strip = [(0, mkEntry 8 3), (15, mkEntry 7 2)]) = true := by
  decide
theorem test_rotate_one_pixel :
    completed (exec .rotate { pixels 1 with strip := [(0, mkEntry 9 6)] }) (fun t => t.strip = [(0, mkEntry 9 6)])
      = true := by
  decide

/-! ### The generator (part 7) -/

theorem test_upd :
    prngUpd 0 = 0 ∧ prngUpd 0x12345678 = 0x56786CB9 ∧ prngUpd 0xFFFFFFFF = 0xFFFF0000 ∧
      prngUpd 0x00008000 = 0x80000003 := by
  decide
theorem test_rnext_4 :
    completed (exec (.rnext 4) State.reset) (fun t => t.prng = 0xBEEFC7ED && t.rv = 1) = true := by
  decide
theorem test_rnext_max : completed (exec (.rnext 0xFFFFFF) State.reset) (fun t => t.rv = 0xEFC8AB) = true := by decide

/-! ### The animation (part 5) -/

theorem test_fx0 :
    completed (exec .fx0 State.reset) (fun t => t.ca = 0 && t.cb = mkComet 96 8 && t.ast = 1 &&
      t.symbolHistory = []) = true := by
  decide
set_option maxRecDepth 100000 in
theorem test_fx1 :
    completed (exec .fx1 { State.reset with cb := mkComet 96 8, ast := 1 }) (fun t => t.ca = mkComet 1 1 &&
      t.cb = mkComet 97 9 && t.strip = [(1, mkEntry 1 6), (9, mkEntry 97 6)]) = true := by
  decide
set_option maxRecDepth 100000 in
theorem test_fx1_wraps :
    completed (exec .fx1 { State.reset with ca := mkComet 191 15 }) (fun t => t.ca = 0) = true := by
  decide
set_option maxRecDepth 100000 in
theorem test_fx2 :
    completed (exec .fx2 State.reset) (fun t => t.prng = 0x8660906D && t.strip = [(0, mkEntry 45 6)]) = true := by
  decide
set_option maxRecDepth 100000 in
theorem test_fx2_later_hue_wins :
    completed (exec .fx2 { State.reset with prng := 0x8660906D, strip := [(0, mkEntry 45 6)] })
      (fun t => t.prng = 0x935E0699 &&
      t.strip = [(0, mkEntry 45 5), (5, mkEntry 187 6), (14, mkEntry 25 6)]) = true := by
  decide
set_option maxRecDepth 100000 in
theorem test_fx3 :
    completed (exec .fx3 State.reset) (fun t => hues t = [109, 96, 45, 131, 46, 11, 165, 187, 94, 25, 132, 23, 88,
      51, 17, 170] && t.prng = 0x1351282A && t.ast = 4) = true := by
  decide
/-- The first three pixels of the vector; level 2 is kept. -/
theorem test_fx4 :
    completed (exec .fx4 { pixels 3 with prng := 0x1351282A, strip := [(0, mkEntry 109 6), (1, mkEntry 96 2), (2,
      mkEntry 45 6)] }) (fun t => hues t = [111, 97, 47] && levels t = [6, 2, 6]) = true := by
  decide
theorem test_fx5 :
    completed (exec .fx5 (pixels 5)) (fun t => hues t = [0, 38, 76, 115, 153] && levels t = [6, 6, 6, 6, 6] &&
      t.ast = 6) = true := by
  decide
theorem test_fx6 :
    completed (exec .fx6 { pixels 3 with strip := [(0, mkEntry 9 6), (1, mkEntry 12 5), (2, mkEntry 24 4)] })
      (fun t => hues t = [24, 9, 12] && levels t = [4, 6, 5]) = true := by
  decide
theorem test_fx7 :
    completed (exec .fx7 { pixels 2 with ghue := 191 }) (fun t => t.ghue = 0 && hues t = [0, 0] &&
      levels t = [6, 6]) = true := by
  decide
theorem test_anext :
    completed (exec .anext { State.reset with ast := 7, tcnt := 9 }) (fun t => t.ast = 0 && t.tcnt = 0) = true := by
  decide
theorem test_atick_75 :
    completed (exec .atick { State.reset with ast := 1, tcnt := 75 }) (fun t => t.ast = 2 && t.tcnt = 0) = true := by
  decide
theorem test_atick_10 :
    completed (exec .atick { State.reset with ast := 1, tcnt := 10 }) (fun t => t.ast = 1 && t.tcnt = 11) = true := by
  decide

/-! ### The game (part 6) -/

theorem test_reached :
    [reached 6000 6000, reached 5999 6000, reached 3 0xFFFFFFF0, reached 0xFFFFFFF0 3, reached 0x80000000 0,
      reached 0x7FFFFFFF 0] = [true, false, true, false, false, true] := by
  decide
set_option maxRecDepth 100000 in
theorem test_ginit :
    completed (exec .ginit { State.reset with env := ⟨true, 5000, false, []⟩ }) (fun t => gameOf t = (0, 9, 1,
      1000, 6000) && t.tnow = 5000 && t.prng = 0xBEEFC7ED &&
      t.strip = [(0, mkEntry 64 6), (9, mkEntry 0 6)]) = true := by
  decide
set_option maxRecDepth 100000 in
theorem test_greset :
    completed (exec .greset State.reset) (fun t => gameOf t = (0, 9, 1, 1000, 0) && t.prng = 0xBEEFC7ED) = true := by
  decide
set_option maxRecDepth 100000 in
theorem test_gstep_down :
    completed (exec .gstep { game 0 9 1 1000 6000 with tnow := 6000 }) (fun t => gameOf t = (15, 9, 1, 1000, 7000))
      = true := by
  decide
set_option maxRecDepth 100000 in
theorem test_gstep_up :
    completed (exec .gstep { game 15 9 0 1000 0 with tnow := 100 }) (fun t => gameOf t = (0, 9, 0, 1000, 1100))
      = true := by
  decide
set_option maxRecDepth 100000 in
theorem test_gcatch :
    completed (exec .gcatch { game 9 9 1 1000 13000 with prng := 0xBEEFC7ED }) (fun t => gameOf t = (9, 13, 0, 950,
      13000) && t.prng = 0xC7ED8660) = true := by
  decide
set_option maxRecDepth 100000 in
/-- The reference instance of U1 (log 6). -/
theorem test_gcatch_underflow :
    completed (exec .gcatch (game 3 3 0 0 0)) (fun t => t.speed = 0xFFFFFFCE) = true := by
  decide
set_option maxRecDepth 100000 in
theorem test_grender_deer_last :
    completed (exec .grender (game 9 9 0 0 0)) (fun t => t.strip = [(9, mkEntry 0 6)]) = true := by
  decide
set_option maxRecDepth 100000 in
theorem test_gpoll_step :
    completed (exec .gpoll { game 0 9 1 1000 6000 with env := ⟨true, 6000, false, []⟩ }) (fun t => gameOf t = (15,
      9, 1, 1000, 7000) && !t.bs) = true := by
  decide
set_option maxRecDepth 100000 in
theorem test_gpoll_miss_and_false_start :
    completed (exec .gpoll { game 9 9 1 1000 13000 with prng := 0xBEEFC7ED, env := ⟨false, 13000, false, []⟩ })
      (fun t => gameOf t = (9, 2, 1, 1000, 13000) && t.prng = 0x8660906D && t.bs) = true := by
  decide

/-! ### The system operations and the environment (part 8) -/

theorem test_pincfg :
    completed (exec .pincfg State.reset) (fun t => t.portDoutOe && t.portDout = some false) = true := by
  decide
theorem test_rdbtn :
    completed (exec .rdbtn { State.reset with env := ⟨false, 0, false, []⟩ }) (fun t => t.bs) = true := by
  decide
theorem test_rdcnt :
    completed (exec .rdcnt { State.reset with env := ⟨true, 5000, false, []⟩ }) (fun t => t.tnow = 5000) = true := by
  decide
theorem test_delayus :
    completed (exec (.delayus 280) State.reset) (fun t => t.portDly = some (.us, 280) && t.portDlyReq) = true := by
  decide
theorem test_delayms :
    completed (exec (.delayms 10) { State.reset with hold := .delay .ms 10, env := ⟨true, 0, true, []⟩ })
      (fun t => t.hold = .running) = true := by
  decide
theorem test_wfe_wakes :
    completed (exec .wfe (State.reset.setWake true)) (fun t => !t.wake && t.hold = .running) = true := by
  decide
theorem test_wfe_holds : completed (exec .wfe State.reset) (fun t => t.portIdle) = true := by decide
theorem test_armwake :
    completed (exec (.armwake 64) State.reset) (fun t => t.tarm && t.portArm = some 64) = true := by
  decide
theorem test_irqoff : completed (exec .irqoff State.reset) (fun t => t.portIrqMask) = true := by decide
theorem test_irqon : completed (exec .irqon (State.reset.setIm true)) (fun t => !t.im) = true := by decide
theorem test_waitrel_holds :
    completed (exec .waitrel { State.reset with env := ⟨false, 0, false, []⟩ }) (fun t => t.bs &&
      t.hold = .release) = true := by
  decide
theorem test_waitrel_completes :
    completed (exec .waitrel (State.reset.setBs true)) (fun t => !t.bs && t.hold = .running) = true := by
  decide
theorem test_hold_in_critical :
    ∀ i ∈ [Instr.delayus 1, .delayms 1, .wfe, .waitrel, .latch],
      refusedFor .holdInCritical (exec i (State.reset.setIm true)) = true := by
  decide
theorem test_press_edge :
    ((State.reset.setBarm true).envMove (.btn false)).wake = true ∧
      (State.reset.envMove (.btn false)).wake = false ∧
      (({ State.reset.setBarm true with env := ⟨false, 0, false,
      []⟩ } : State).envMove (.btn true)).wake = false := by
  decide
theorem test_tick :
    ((State.reset.setTarm true).envMove .tick).wake = true ∧ (State.reset.envMove .tick).wake = false := by
  decide

/-! ### The sequencer (part 9) -/

/-- `k` steps. -/
def stepped : Nat → State → Result
  | 0, s => .next s
  | k + 1, s => andThen (step s) (stepped k)

/-- The pins as BOOT leaves them, nothing armed: the state of the reset machine later in a run. -/
def running (l : BitVec 4) : State := { State.reset with seq := l, stat := 0x80 }

/-- The same with the button down. -/
def pressed (l : BitVec 4) : State := { running l with env := ⟨false, 0, false, []⟩ }

/-- The same in manual mode. -/
def manual (l : BitVec 4) : State := { running l with stat := 0x84 }

/-- Three operations, three steps: PINCFG, RDBTN, ARMWAKE. -/
theorem test_boot_automatic :
    completed (stepped 3 State.reset) (fun t => t.stat = 0x90 && t.seq = 1 && t.part = .first) = true := by
  decide
/-- A press edge between RDBTN and ARMWAKE of BOOT is seen: the enable is set. -/
theorem test_boot_manual :
    completed (stepped 3 { State.reset with env := ⟨false, 0, false, [.turnEnd, .btn true, .btn false,
      .turnEnd]⟩ }) (fun t => t.bs && t.man && t.barm && t.tarm && t.wake && t.seq = 5) = true := by
  decide
theorem test_boot_game :
    completed (step (strapped 1)) (fun t => t.seq = 7 && gamePhase .gInit = some .idle) = true := by
  decide
/-- WFE holds; the armed tick of the environment's turn wakes it (log 2). -/
theorem test_sleep_then_tick :
    completed (step { State.reset with seq := 3, stat := 0x90 }) (fun t => t.seq = 3 && t.wake) = true := by
  decide
theorem test_button_manual :
    completed (stepped 2 { State.reset with seq := 4, stat := 0xB4, ast := 1, env := ⟨false, 0, false, []⟩ })
      (fun t => t.ast = 2 && t.tcnt = 0 && t.seq = 5 && t.part = .first) = true := by
  decide
/-- An armed tick comes also while WAITREL holds (46_system.md R279). -/
theorem test_tick_while_button_held :
    completed (step { pressed 5 with stat := 0x98, hold := .release, env := ⟨false, 63, false, []⟩ })
      (fun t => t.wake && t.hold = .release) = true := by
  decide
theorem test_issued_descriptor :
    completed (step (State.reset.withFetchWord 32 0x20030640)) (fun t => t.strip = [(3, mkEntry 64 6)] &&
      t.pending = []) = true := by
  decide
theorem test_reset_pin :
    completed (step { (State.reset.issueNext 0x24000601) with env := ⟨true, 7, false, [.reset]⟩ })
      (fun t => t.strip = [] && t.seq = 0 && t.env.cnt = 7) = true := by
  decide

/-! ### Witnesses: concrete states that meet the hypotheses of each statement, clause by clause -/

/-- The reset state is in range; so are the states of the witnesses below, which differ from it in few fields. -/
theorem reset_inRange : State.reset.InRange := by decide

theorem reference_legal : Config.reference.Legal := by decide

/-- A state that differs from reset in registers that the range invariants do not bound, or bound as given. -/
theorem inRange_with {s : State} (hp : s.par = Config.reference) (h : s.cfg = 0 ∧ s.strip.wf ∧
    StripInRange Config.reference s.strip ∧
    ((cometHue s.ca).toNat ≤ 191 ∧ (cometHue s.cb).toNat ≤ 191 ∧ s.ghue.toNat ≤ 191) ∧
    ((cometIdx s.ca).toNat < 16 ∧ (cometIdx s.cb).toNat < 16) ∧ (s.hunter.toNat < 16 ∧ s.deer.toNat < 16) ∧
    s.tcnt.toNat < 76 ∧ s.seq.toNat ≤ 10 ∧ s.dout = false ∧
    (s.part = .first ∨ s.seq = 0 ∨ (s.seq = 4 ∧ s.part = .second))) : s.InRange := by
  unfold State.InRange
  rw [hp]
  exact ⟨reference_legal, h⟩

/-- `r` is the next state `t`. -/
theorem next_of_completed {r : Result} (h : completed r (fun _ => true) = true) : ∃ t, r = .next t := by
  cases r with
  | next t => exact ⟨t, rfl⟩
  | fault e => cases h
  | refused q => cases h

theorem witness_OnlyReservedDescriptorsRefused :
    (State.reset.issueNext 0x4A000000).pending = [0x4A000000] ∧ decode 0x4A000000 = .error .reservedOp ∧
      (State.reset.issueNext 0x22000000).pending = [encode .fade] ∧ decode 0x22000000 = .ok .fade :=
  by decide
/-- A descriptor that completes, one that holds, one that is refused. -/
theorem witness_StepRunsIssuedDescriptor :
    (State.reset.issueNext 0x22000000).pending = [0x22000000] ∧ decode 0x22000000 = .ok .fade ∧
      completed (exec .fade (State.reset.issueNext 0x22000000)) (fun t => t.hold = .running) = true ∧
      decode 0x6300000A = .ok (.delayms 10) ∧
      completed (exec (.delayms 10) (State.reset.issueNext 0x6300000A)) (fun t => t.hold ≠ .running) = true ∧
      decode 0x30000000 = .ok (.rnext 0) ∧
      refusedFor .zeroModulus (exec (.rnext 0) (State.reset.issueNext 0x30000000)) = true :=
  by decide
theorem witness_OperationsRunUnlessRefused :
    State.reset.InRange ∧ Instr.wellFormed .fade = true ∧ waits .fade = false :=
  ⟨reset_inRange, by decide⟩
theorem witness_RefusalReasons :
    191 < (192 : Byte).toNat ∧ (191 : Byte).toNat ≤ 191 ∧ 6 < (7 : Level).toNat ∧ waits (.delayus 0) = true ∧
      (State.reset.setIm true).im = true :=
  by decide
theorem witness_SendsPutTheirBitsOnTheWire :
    0 < State.reset.par.tWindowNs ∧ ({ Config.reference with tWindowNs := 1 } : Config.Params).Legal :=
  by decide
theorem witness_LatchWaitsForTheGap :
    State.reset.par.Legal ∧ State.reset.im = false ∧ State.reset.hold ≠ .delay .us 280 ∧
      latchMicros State.reset.par = 280 ∧
      ({ State.reset with hold := .delay .us 280 } : State).env.dlyDone = false ∧
      ({ State.reset with hold := .delay .us 280, env := ⟨true, 0, true, []⟩ } : State).env.dlyDone = true :=
  ⟨reference_legal, by decide⟩
theorem witness_ShowSendsOneFrame :
    State.reset.par.Legal ∧ StripInRange State.reset.par [(15, mkEntry 191 6)] :=
  ⟨reference_legal, by decide⟩
theorem witness_ShowDisplaysTheStrip :
    State.reset.par.Legal ∧ StripInRange State.reset.par State.reset.strip ∧ State.reset.line.segs = [] ∧
      State.reset.oe = false ∧ (State.reset.setOe true).oe = true ∧ (State.reset.setOe true).line.segs = [] ∧
      ∃ e r, [Segment.low 280000000, .high 300000] = .low e :: r ∧ Config.ns State.reset.par.tLatchNs ≤ e :=
  ⟨reference_legal, by decide, rfl, by decide, by decide, rfl, 280000000, _, rfl, by decide⟩
/-- A bad high and a bad gap at the ends of their ranges,
  and the bits of a frame of one pixel; the chain before is that of reset. -/
theorem witness_ObserverJudgesEveryFrame :
    ({ Config.reference with n := 1 } : Config.Params).Legal ∧
      (∀ g ∈ [((Config.ns 499, Config.ns 50000) : Nat × Nat), (Config.ns 625, Config.ns 279999), (Config.ns 500,
      1), (Config.ns 624, 1)], g.2 < Config.ns 280000) ∧ Config.ns 280000 ≤ Config.ns 280000 ∧
      Config.ns 500 ≤ Config.ns 500 ∧ Config.ns 624 < Config.ns 625 ∧ (frameBits false [mkRgb 0 255 0]).length = 24 :=
  ⟨⟨by decide, reference_legal.2⟩, by decide⟩
theorem witness_StepKeepsTheWireLegal :
    State.reset.oe = false ∧ State.reset.line.segs = [] ∧ State.reset.PinsConfigured ∧
      completed (step State.reset) (fun t => t.oe) = true ∧
      completed (step (State.reset.issueNext 0x00000001)) (fun t => !t.oe && t.wireHistory = []) = true ∧
      highsLegal [.low 1, .high 499999, .low 1, .high 625000] ∧
      lowsApart [.low 1, .high 499999, .low 1, .high 625000] = true ∧
      ∃ t, step { State.reset with line := ⟨[.low 1, .high 499999, .low 1, .high 625000], [.b0, .b1],
      4⟩ } = .next t :=
  ⟨by decide, rfl, .inr ⟨rfl, rfl⟩, by decide, by decide, by simp [highsLegal, Config.ns], rfl,
    next_of_completed (by decide)⟩
theorem witness_Hue2rgbConvertsWithGamma :
    (∀ h ∈ [(0 : Byte), 63, 64, 127, 128, 191], h.toNat ≤ 191) ∧ (63 : Byte).toNat < 64 ∧ 64 ≤ (64 : Byte).toNat ∧
      (127 : Byte).toNat < 128 ∧ 128 ≤ (128 : Byte).toNat ∧ (6 : Level).toNat ≤ 6 :=
  by decide
theorem witness_Hue2rgblConvertsLinearly :
    (191 : Byte).toNat ≤ 191 ∧ (63 : Byte).toNat < 64 ∧ 64 ≤ (64 : Byte).toNat ∧ (127 : Byte).toNat < 128 ∧
      128 ≤ (128 : Byte).toNat :=
  by decide
theorem witness_ConvertFollowsTheStrap :
    State.reset.cfg.getLsbD 2 = false ∧ (strapped 4).cfg.getLsbD 2 = true ∧ entryLevel (mkEntry 191 0) = 0 ∧
      entryLevel (mkEntry 191 6) ≠ 0 ∧ completed (exec (.hue2rgb 191 6) State.reset) (fun _ => true) = true ∧
      completed (exec (.hue2rgbl 191) (strapped 4)) (fun _ => true) = true :=
  by decide
theorem witness_Hue2rgbChannelProperties :
    Config.GammaLegal Config.gammaRef ∧ (63 : Byte).toNat / 64 = 0 ∧ (64 : Byte).toNat / 64 = 1 ∧
      (191 : Byte).toNat / 64 = 2 ∧ (64 : Byte).toNat % 64 = 0 ∧ (191 : Byte).toNat % 64 = 63 ∧
      (191 : Byte).toNat ≤ 191 ∧ (0 : Level).toNat ≤ 6 ∧ (6 : Level).toNat ≤ 6 :=
  by decide
theorem witness_PxsetStoresOneEntry :
    State.reset.strip.wf ∧ (191 : Byte).toNat ≤ 191 ∧ (6 : Level).toNat ≤ 6 :=
  by decide
theorem witness_FadeDimsEveryPixel :
    Memory.wf [(0, mkEntry 45 6), (15, mkEntry 9 1)] ∧ 15 < State.reset.par.n ∧ State.reset.par.n ≤ 16 :=
  by decide
theorem witness_ClearTurnsEveryPixelOff :
    Memory.wf [(0, mkEntry 45 6), (15, mkEntry 9 1)] ∧ 15 < State.reset.par.n ∧ State.reset.par.n ≤ 16 :=
  by decide
theorem witness_FillSetsEveryPixel :
    State.reset.strip.wf ∧ (191 : Byte).toNat ≤ 191 ∧ (6 : Level).toNat ≤ 6 ∧ 15 < State.reset.par.n :=
  by decide
theorem witness_RotateMovesEveryPixel :
    Memory.wf [(0, mkEntry 45 6), (15, mkEntry 9 1)] ∧ 1 ≤ (pixels 1).par.n ∧ 15 < State.reset.par.n :=
  by decide
theorem witness_StripProperties :
    State.reset.par.Legal ∧ Memory.wf [(15, mkEntry 191 6)] ∧ StripInRange State.reset.par [(15, mkEntry 191 6)] ∧
      completed (exec (.pxset 255 191 6) State.reset) (fun _ => true) = true ∧
      completed (exec (.fill 191 6) State.reset) (fun _ => true) = true :=
  ⟨reference_legal, by decide⟩
theorem witness_RnextUpdatesThenReduces : (1 : BitVec 24) ≠ 0 ∧ (0xFFFFFF : BitVec 24) ≠ 0 := by decide
theorem witness_Fx0SetsTheComets : State.reset.par.Legal := reference_legal
theorem witness_InvocationFollowsTheTable : State.reset.InRange := reset_inRange
theorem witness_Fx1MovesTheComets : State.reset.InRange := reset_inRange
theorem witness_Fx3RandomisesEveryPixel : State.reset.InRange := reset_inRange
theorem witness_Fx4DriftsEveryHue : State.reset.InRange := reset_inRange
theorem witness_Fx5SetsTheRainbow : State.reset.InRange := reset_inRange
theorem witness_Fx6RotatesTheRainbow : State.reset.InRange := reset_inRange
theorem witness_Fx7BreathesOneHue : State.reset.InRange := reset_inRange
theorem witness_GrenderDrawsTheGame : State.reset.InRange := reset_inRange
theorem witness_GresetPlacesTheDeer : State.reset.InRange := reset_inRange
theorem witness_GinitStartsTheGame : State.reset.InRange := reset_inRange
/-- Index 14 is drawn at j = 0 and again at j = 2, index 5 at j = 1, and index 0 never. -/
theorem witness_Fx2ScattersPixels :
    ({ State.reset with prng := 0x8660906D } : State).InRange ∧ (prngUpd 0x8660906D).toNat % 4 = 3 ∧
      [2, 3, 4, 5, 6, 7].map (fun k => (prngUpd^[k] 0x8660906D).toNat % 16) = [14, 11, 5, 11, 14, 9] :=
  ⟨inRange_with rfl (by decide), by decide⟩
theorem witness_AtickCountsPeriods :
    ({ State.reset with tcnt := 75 } : State).InRange ∧ (75 : BitVec 8).toNat + 1 = State.reset.par.autoTicks ∧
      ({ State.reset with tcnt := 74 } : State).InRange ∧ (74 : BitVec 8).toNat + 1 ≠ State.reset.par.autoTicks :=
  ⟨inRange_with rfl (by decide), by decide, inRange_with rfl (by decide), by decide⟩
theorem witness_AstAndSHaveTheirWriters :
    (∀ i ∈ [Instr.fx0, .fx3, .fx5, .anext, .atick, .fade, .rnext 1], completed (exec i (pixels 1)) (fun _ => true)
      = true) ∧ completed (exec (.rnext 1) (pixels 1)) (fun t => t.prng ≠ (pixels 1).prng) = true :=
  by decide
theorem witness_GstepMovesTheHunter :
    (game 15 9 0 1000 0).InRange ∧ (game 15 9 0 1000 0).dir = 0 ∧ (game 0 9 1 0 0).InRange ∧
      (game 0 9 1 0 0).dir = 1 :=
  ⟨inRange_with rfl (by decide), rfl, inRange_with rfl (by decide), rfl⟩
theorem witness_GcatchSpeedsUpTheGame :
    (game 9 9 1 50 0).InRange ∧ State.reset.par.speedDec.toNat ≤ (50 : Word).toNat ∧ (game 9 9 1 49 0).InRange ∧
      (49 : Word).toNat < State.reset.par.speedDec.toNat ∧ State.reset.par.underflow = .wraps :=
  ⟨inRange_with rfl (by decide), by decide, inRange_with rfl (by decide), by decide⟩
/-- Nothing due, due on the deer, due off the deer; the button up, and down on and off the deer. -/
theorem witness_GpollRunsOnePoll :
    (game 9 9 1 1000 1).InRange ∧ reached 0 1 = false ∧ (game 9 9 1 1000 0).InRange ∧ reached 0 0 = true ∧
      (game 8 9 1 1000 0).InRange ∧ (8 : Byte) ≠ 9 ∧ (game 9 9 1 1000 1).envInside.env.btnN = true ∧
      ({ game 9 9 1 1000 1 with env := ⟨false, 0, false, []⟩ } : State).InRange ∧
      ({ game 8 9 1 1000 1 with env := ⟨false, 0, false, []⟩ } : State).InRange :=
  ⟨inRange_with rfl (by decide), by decide, inRange_with rfl (by decide), by decide, inRange_with rfl (by decide),
    by decide, by decide, inRange_with rfl (by decide), inRange_with rfl (by decide)⟩
theorem witness_PinsMaskAndSamples :
    (State.reset.setIm true).im = true ∧ State.reset.im = false ∧ (1 : BitVec 24) ≠ 0 ∧ (0xFFFFFF : BitVec 24) ≠ 0 :=
  by decide
theorem witness_DelaysLastAtLeastAsLong :
    State.reset.im = false ∧ (1 : BitVec 24) ≠ 0 ∧ State.reset.hold ≠ .delay .us 1 ∧
      State.reset.hold ≠ .delay .ms 0xFFFFFF ∧
      ({ State.reset with hold := .delay .ms 1 } : State).env.dlyDone = false ∧
      ({ State.reset with hold := .delay .us 1, env := ⟨true, 0, true, []⟩ } : State).env.dlyDone = true :=
  by decide
theorem witness_WfeWaitsForTheWakeFlag :
    State.reset.im = false ∧ State.reset.wake = false ∧ (State.reset.setWake true).im = false ∧
      (State.reset.setWake true).wake = true :=
  by decide
theorem witness_WaitrelWaitsForTheRelease :
    State.reset.im = false ∧ State.reset.env.btnN = true ∧ (pressed 5).im = false ∧ (pressed 5).env.btnN = false :=
  by decide
theorem witness_EnvironmentWritesOnlyWake :
    EnvEvent.reset ∉ [EnvEvent.tick, .turnEnd, .btn false] ∧ (State.reset.setWake true).wake = true ∧
      EnvEvent.reset ∉ (State.reset.setTarm true).env.script ∧ (State.reset.setTarm true).env.script = [] ∧
      (State.reset.setTarm true).tarm = true ∧
      ({ State.reset with hold := .delay .ms 10 } : State).portDlyReq = true :=
  by decide
theorem witness_ResetRestoresEveryRegister :
    ∃ u, coreStep { State.reset with env := ⟨true, 0, false, [.reset, .tick]⟩ } = .next u ∧
      u.env.script = .reset :: [.tick] :=
  ⟨_, rfl, rfl⟩

/-- The settle delay requested, and over or not. -/
def waited (l : BitVec 4) (ended : Bool) : State :=
  { running l with hold := .delay .ms 10, env := ⟨true, 0, ended, []⟩ }

/-- A machine whose settle delay is 0. -/
def unsettled (l : BitVec 4) : State :=
  { State.resetOf { Config.reference with settleMs := 0 } with seq := l, stat := 0x80 }

theorem unsettled_6_inRange : (unsettled 6).InRange := by decide

theorem unsettled_10_inRange : (unsettled 10).InRange := by decide

theorem witness_BootDecidesTheMode :
    State.reset.pending = [] ∧ State.reset.seq = 0 ∧ State.reset.hold = .running ∧ State.reset.par.refreshMs ≠ 0 ∧
      State.reset.engine = false ∧ State.reset.part = .first ∧ (strapped 1).engine = true ∧
      (strapped 1).par.refreshMs ≠ 0 ∧ (State.reset.goPart .second).part = .second ∧
      (State.reset.goPart .third).part = .third :=
  by decide
theorem witness_AnimationLabelsRunTheLoop :
    (∀ l ∈ [(1 : BitVec 4), 2, 3, 4, 5, 6], (running l).InRange ∧ (running l).Autonomous ∧
      (running l).hold = .running ∧ (running l).part = .first) ∧ (running 2).man = false ∧ (manual 2).InRange ∧
      (manual 2).man = true ∧ (running 3).wake = false ∧ ((running 3).setWake true).InRange ∧
      ((running 3).setWake true).wake = true ∧ ({ manual 4 with env := ⟨false, 0, false, []⟩ } : State).InRange ∧
      (manual 4).env.btnN = true ∧ ((manual 4).goPart .second).InRange ∧ (pressed 5).InRange ∧
      ((pressed 5).setHold .release).InRange ∧ ((running 3).setHold .event).InRange ∧
      (running 6).par.settleMs ≠ 0 ∧ (waited 6 false).InRange ∧
      (waited 6 false).hold = .delay .ms (waited 6 false).par.settleMs.toNat ∧ (waited 6 true).InRange ∧
      (waited 6 true).env.dlyDone = true ∧ (unsettled 6).InRange ∧ (unsettled 6).par.settleMs = 0 :=
  ⟨fun l hl => ⟨inRange_with rfl (by revert l; decide), by decide +revert, rfl, rfl⟩, by decide,
    inRange_with rfl (by decide), by decide,
    by decide, inRange_with rfl (by decide), by decide, inRange_with rfl (by decide), by decide,
      inRange_with rfl (by decide),
    inRange_with rfl (by decide), inRange_with rfl (by decide), inRange_with rfl (by decide), by decide,
    inRange_with rfl (by decide), rfl, inRange_with rfl (by decide), rfl, unsettled_6_inRange, rfl⟩
theorem witness_GameLabelsRunTheLoop :
    (∀ l ∈ [(7 : BitVec 4), 8, 9, 10], (running l).InRange ∧ (running l).Autonomous ∧
      (running l).hold = .running) ∧ (running 9).env.btnN = true ∧ (pressed 9).InRange ∧
      (pressed 9).env.btnN = false ∧ ((pressed 9).setHold .release).InRange ∧ (running 10).par.settleMs ≠ 0 ∧
      (waited 10 false).InRange ∧ (waited 10 false).hold = .delay .ms (waited 10 false).par.settleMs.toNat ∧
      (waited 10 true).InRange ∧ (waited 10 true).env.dlyDone = true ∧ (unsettled 10).InRange ∧
      (unsettled 10).par.settleMs = 0 :=
  ⟨fun l hl => ⟨inRange_with rfl (by revert l; decide), by decide +revert, rfl⟩, by decide,
    inRange_with rfl (by decide), by decide,
    inRange_with rfl (by decide), by decide, inRange_with rfl (by decide), rfl, inRange_with rfl (by decide), rfl,
    unsettled_10_inRange, rfl⟩
theorem witness_OperationsKeepTheControlState :
    completed (exec .fade { State.reset with stat := 0x91 }) (fun _ => true) = true ∧
      ({ State.reset with stat := 0x91 } : State).tarm = true ∧
      ({ State.reset with stat := 0x91 } : State).oe = true ∧
      ({ State.reset with stat := 0x91 } : State).wake = true ∧ Instr.fade ≠ .wfe :=
  by decide
theorem witness_EnginesOwnTheirRegisters :
    (running 6).pending = [] ∧ completed (coreStep (running 6)) (fun _ => true) = true ∧
      (running 6).engine = false ∧ (6 : BitVec 4).toNat ≤ 6 ∧
      completed (coreStep (strapped 1)) (fun _ => true) = true ∧ (strapped 1).engine = true ∧
      (strapped 1).seq = 0 ∧ (strapped 1).part = .first ∧
      completed (coreStep { strapped 1 with seq := 10 }) (fun _ => true) = true :=
  by decide
theorem witness_ResetIsInRange : Config.reference.Legal := reference_legal
theorem witness_StepKeepsTheRanges :
    State.reset.InRange ∧ ∃ t, step State.reset = .next t :=
  ⟨reset_inRange, next_of_completed (by decide)⟩
theorem witness_SequencerIsNeverRefused : State.reset.InRange ∧ State.reset.Autonomous := ⟨reset_inRange, by decide⟩
theorem witness_SequencerSendsOnlyGoodFrames :
    State.reset.InRange ∧ State.reset.Autonomous ∧ State.reset.PinsConfigured ∧ ChainClean State.reset ∧
      ∃ t, step State.reset = .next t :=
  ⟨reset_inRange, by decide, .inr ⟨rfl, rfl⟩, ⟨rfl, rfl⟩, next_of_completed (by decide)⟩
set_option maxRecDepth 100000 in
/-- A step that sends a frame. -/
theorem witness_sequencer_frame :
    (running 6).InRange ∧ completed (step { running 1 with ast := 7 }) (fun t => t.wireHistory ≠ []) = true :=
  ⟨inRange_with rfl (by decide), by decide⟩

end Sys2Proof.Tests
end

section
/-! PROOFS. What every operation keeps: the control state, the registers of the engine it does not belong to, and the
range invariants (10_state.md R30 to R57). -/

namespace Sys2Proof.Machine

/-! ### What an operation may write

Every operation falls into one of five scopes. `Ran k s t` says all that an operation of scope `k` can do to the control
state, to the two engines' registers and to the ranges; it is a preorder, so an operation has it when its parts do. -/

/-- What an operation may write beside the strip, the generator, the output, the samples and the waits. -/
inductive Scope where
  /-- Nothing else. -/
  | shared
  /-- The registers of the AnimationEngine (10_state.md R35 to R39). -/
  | animation
  /-- The registers of the GameEngine (10_state.md R44 to R48). -/
  | game
  /-- WFE, which clears STAT.WAKE (46_system.md R261). -/
  | wake
  /-- ARMWAKE, which sets STAT.TARM (46_system.md R262). -/
  | timer

/-- The scope of each operation. -/
def scopeOf : Instr → Scope
  | .fx0 | .fx1 | .fx2 | .fx3 | .fx4 | .fx5 | .fx6 | .fx7 | .anext | .atick => .animation
  | .greset | .gstep | .gcatch | .gpoll | .ginit => .game
  | .wfe => .wake
  | .armwake _ => .timer
  | .sendbit _ | .sendbyte _ | .sendcolor _ _ _ | .latch | .showFrame | .hue2rgb _ _ | .hue2rgbl _
  | .pxset _ _ _ | .pxget _ | .fade | .clear | .fill _ _ | .rotate | .rnext _ | .grender
  | .delayus _ | .delayms _ | .rdcnt | .rdbtn | .irqoff | .irqon | .waitrel | .pincfg => .shared

/-- The registers that only the AnimationEngine writes. -/
def State.animationRegs (s : State) : BitVec 3 × BitVec 8 × BitVec 16 × BitVec 16 × Byte :=
  (s.ast, s.tcnt, s.ca, s.cb, s.ghue)

/-- The registers that only the GameEngine writes. -/
def State.gameRegs (s : State) : Byte × Byte × BitVec 1 × Word × Word :=
  (s.hunter, s.deer, s.dir, s.speed, s.deadline)

/-- STAT from before to after an operation of scope `k`: MAN and BARM, which the sequencer writes, are kept; TARM is
written by ARMWAKE alone and never cleared; OE is never cleared, WAKE by WFE alone; DOUT is low again at the end. -/
structure StatKept (k : Scope) (s t : State) : Prop where
  man : t.man = s.man
  barm : t.barm = s.barm
  tarmKept : k ≠ .timer → t.tarm = s.tarm
  tarm : s.tarm = true → t.tarm = true
  oe : s.oe = true → t.oe = true
  wake : k ≠ .wake → s.wake = true → t.wake = true
  dout : s.dout = false → t.dout = false

/-- The range invariants of 10_state.md R56 about the registers and the strip that operations write. -/
structure RegistersInRange (s : State) : Prop where
  legal : s.par.Legal
  wf : s.strip.wf
  strip : StripInRange s.par s.strip
  cometHues : (cometHue s.ca).toNat ≤ 191 ∧ (cometHue s.cb).toNat ≤ 191
  ghue : s.ghue.toNat ≤ 191
  cometIdxs : (cometIdx s.ca).toNat < s.par.n ∧ (cometIdx s.cb).toNat < s.par.n
  hunter : s.hunter.toNat < s.par.n
  deer : s.deer.toNat < s.par.n
  tcnt : s.tcnt.toNat < s.par.autoTicks

/-- All that an operation of scope `k` can do to the control state, the engines' registers and the ranges. -/
structure Ran (k : Scope) (s t : State) : Prop where
  cfg : t.cfg = s.cfg
  seq : t.seq = s.seq
  part : t.part = s.part
  par : t.par = s.par
  pending : t.pending = s.pending
  stat : StatKept k s t
  animation : k ≠ .animation → t.animationRegs = s.animationRegs
  game : k ≠ .game → t.gameRegs = s.gameRegs
  ranges : RegistersInRange s → RegistersInRange t

theorem RegistersInRange.stripOk {s : State} (h : RegistersInRange s) : StripOk s := ⟨h.wf, h.strip⟩

theorem StatKept.trans {k : Scope} {s t u : State} (h : StatKept k s t) (g : StatKept k t u) : StatKept k s u where
  man := g.man.trans h.man
  barm := g.barm.trans h.barm
  tarmKept hk := (g.tarmKept hk).trans (h.tarmKept hk)
  tarm := g.tarm ∘ h.tarm
  oe := g.oe ∘ h.oe
  wake hk := g.wake hk ∘ h.wake hk
  dout := g.dout ∘ h.dout

theorem StatKept.of_eq (k : Scope) {s t : State} (h : t.stat = s.stat) : StatKept k s t := by
  constructor <;>
    simp [State.man, State.barm, State.tarm, State.oe, State.wake, State.dout, h]

theorem Ran.trans {k : Scope} {s t u : State} (h : Ran k s t) (g : Ran k t u) : Ran k s u where
  cfg := g.cfg.trans h.cfg
  seq := g.seq.trans h.seq
  part := g.part.trans h.part
  par := g.par.trans h.par
  pending := g.pending.trans h.pending
  stat := h.stat.trans g.stat
  animation hk := (g.animation hk).trans (h.animation hk)
  game hk := (g.game hk).trans (h.game hk)
  ranges := g.ranges ∘ h.ranges

/-- What writes neither an engine's registers nor the control state has any scope that its writes of STAT allow, if it
keeps the strip. -/
theorem Ran.of_frame {k : Scope} {s t : State}
    (eq : t = { s with
      stat := t.stat, prng := t.prng, rv := t.rv, rgb := t.rgb, pxr := t.pxr, tnow := t.tnow, strip := t.strip
      armMs := t.armMs, hold := t.hold, line := t.line, env := t.env })
    (stat : StatKept k s t) (strip : s.par.Legal → StripOk s → StripOk t) : Ran k s t where
  cfg := by rw [eq]
  seq := by rw [eq]
  part := by rw [eq]
  par := by rw [eq]
  pending := by rw [eq]
  stat := stat
  animation _ := by rw [eq]; rfl
  game _ := by rw [eq]; rfl
  ranges h :=
    { legal := by rw [eq]; exact h.legal
      wf := (strip h.legal h.stripOk).wf
      strip := (strip h.legal h.stripOk).range
      cometHues := by rw [eq]; exact h.cometHues
      ghue := by rw [eq]; exact h.ghue
      cometIdxs := by rw [eq]; exact h.cometIdxs
      hunter := by rw [eq]; exact h.hunter
      deer := by rw [eq]; exact h.deer
      tcnt := by rw [eq]; exact h.tcnt }

/-- What writes neither the strip nor an engine's registers nor the control state. -/
theorem Ran.of_frame_strip {k : Scope} {s t : State}
    (eq : t = { s with
      stat := t.stat, prng := t.prng, rv := t.rv, rgb := t.rgb, pxr := t.pxr, tnow := t.tnow
      armMs := t.armMs, hold := t.hold, line := t.line, env := t.env })
    (stat : StatKept k s t) : Ran k s t :=
  .of_frame (by rw [eq]) stat fun _ h => by rw [eq]; exact ⟨h.wf, h.range⟩

theorem Ran.refl (k : Scope) (s : State) : Ran k s s := .of_frame_strip rfl (.of_eq _ rfl)

/-- A write of the AnimationEngine's registers. -/
theorem Ran.of_animation {s t : State}
    (eq : t = { s with ast := t.ast, tcnt := t.tcnt, ca := t.ca, cb := t.cb, ghue := t.ghue })
    (ranges : RegistersInRange s → RegistersInRange t) : Ran .animation s t where
  cfg := by rw [eq]
  seq := by rw [eq]
  part := by rw [eq]
  par := by rw [eq]
  pending := by rw [eq]
  stat := .of_eq _ (by rw [eq])
  animation hk := absurd rfl hk
  game _ := by rw [eq]; rfl
  ranges := ranges

/-- A write of the GameEngine's registers. -/
theorem Ran.of_game {s t : State}
    (eq : t = { s with hunter := t.hunter, deer := t.deer, dir := t.dir, speed := t.speed, deadline := t.deadline })
    (ranges : RegistersInRange s → RegistersInRange t) : Ran .game s t where
  cfg := by rw [eq]
  seq := by rw [eq]
  part := by rw [eq]
  par := by rw [eq]
  pending := by rw [eq]
  stat := .of_eq _ (by rw [eq])
  animation _ := by rw [eq]; rfl
  game hk := absurd rfl hk
  ranges := ranges

/-! ### The strip, the generator and the colours -/

section
variable {k : Scope} {s t : State}

theorem fadeStrip_ran : Ran k s s.fadeStrip := .of_frame rfl (.of_eq _ rfl) fun _ h => h.fade

theorem clearStrip_ran : Ran k s s.clearStrip := .of_frame rfl (.of_eq _ rfl) fun _ h => h.clear

theorem rotateStrip_ran : Ran k s s.rotateStrip := .of_frame rfl (.of_eq _ rfl) fun hp h => h.rotate hp.1.1

theorem putEntry_ran {a : Nat} {e : Entry} (ha : s.par.Legal → a < s.par.n)
    (hh : StripOk s → (entryHue e).toNat ≤ 191) (hl : StripOk s → (entryLevel e).toNat ≤ 6) :
    Ran k s (s.putEntry a e) :=
  .of_frame rfl (.of_eq _ rfl) fun hp h => h.putEntry (ha hp) (hh h) (hl h)

theorem storePixel_ran {i : Nat} {h : Byte} {l : Level} (e : s.storePixel i h l = .next t) : Ran k s t := by
  obtain ⟨hh, hl, rfl⟩ := State.storePixel_next e
  exact putEntry_ran (fun hp => State.wrap_lt hp.1.1 i) (fun _ => by simpa using hh) (fun _ => by simpa using hl)

/-- All that FILL can do when it completes. -/
theorem State.fillStrip_next {h : Byte} {l : Level} (e : s.fillStrip h l = .next t) :
    h.toNat ≤ 191 ∧ l.toNat ≤ 6 ∧ t = { s with strip := s.strip.mapFirst s.par.n fun _ _ => mkEntry h l } := by
  unfold State.fillStrip unlessOutOfRange at e
  split at e
  · cases e
  · split at e
    · cases e
    · cases e
      exact ⟨by omega, by omega, rfl⟩

theorem StripOk.fill (hs : StripOk s) {h : Byte} {l : Level} (hh : h.toNat ≤ 191) (hl : l.toNat ≤ 6) :
    StripOk { s with strip := s.strip.mapFirst s.par.n fun _ _ => mkEntry h l } where
  wf := Memory.wf_mapFirst hs.wf s.par.n fun _ _ => mkEntry h l
  range := hs.range.mapFirst (f := fun _ _ => mkEntry h l) (Nat.le_refl _) fun _ _ _ _ _ => by
    simpa using ⟨hh, hl⟩

theorem fillStrip_ran {h : Byte} {l : Level} (e : s.fillStrip h l = .next t) : Ran k s t := by
  obtain ⟨hh, hl, rfl⟩ := State.fillStrip_next e
  exact .of_frame rfl (.of_eq _ rfl) fun _ hs => hs.fill hh hl

theorem prngNext_ran {m : Nat} (e : prngNext m s = .next t) : Ran k s t := by
  obtain ⟨-, rfl⟩ := prngNext_next e
  exact .of_frame_strip rfl (.of_eq _ rfl)

/-- A conversion that completes leaves its triplet in RGB and writes nothing else. -/
theorem State.putColour_next {c : Except Refusal Rgb} (e : s.putColour c = .next t) :
    c = .ok t.rgb ∧ t = { s with rgb := t.rgb } := by
  cases c with
  | error q => cases e
  | ok v => cases e; exact ⟨rfl, rfl⟩

theorem putColour_ran {c : Except Refusal Rgb} (e : s.putColour c = .next t) : Ran k s t := by
  obtain ⟨-, eq⟩ := State.putColour_next e
  rw [eq]
  exact .of_frame_strip rfl (.of_eq _ rfl)

/-! ### The wire -/

/-- DOUT written low keeps every other bit of STAT. -/
theorem StatKept.of_dropDout (h : t.stat = dropDout s.stat) : StatKept k s t := by
  constructor <;>
    simp [State.man, State.barm, State.tarm, State.oe, State.wake, State.dout, h, dropDout]

theorem sendBit_ran (b : Bool) : Ran k s (s.sendBit b) := by
  rw [State.sendBit_eq]
  exact .of_frame_strip rfl (.of_dropDout rfl)

theorem sendByte_ran (v : Byte) : Ran k s (s.sendByte v) := by
  rw [State.sendByte_eq]
  exact .of_frame_strip rfl (.of_dropDout rfl)

theorem sendColor_ran (c : Rgb) : Ran k s (s.sendColor c) := by
  rw [State.sendColor_eq]
  exact .of_frame_strip rfl (.of_dropDout rfl)

theorem sendPixels_statKept (cs : List Rgb) (s : State) : StatKept k s (cs.foldl State.sendPixel s) := by
  induction cs generalizing s with
  | nil => exact .of_eq _ rfl
  | cons c cs ih =>
    have hset : StatKept k s { s with rgb := c } := .of_eq _ rfl
    exact (hset.trans (sendColor_ran c).stat).trans (ih _)

theorem setIm_statKept (b : Bool) : StatKept k s (s.setIm b) := by constructor <;> simp

theorem sendFrame_ran (cs : List Rgb) : Ran k s (s.sendFrame cs) := by
  have hclose (u : State) : StatKept k u (u.leaveCritical false).latchGap := by constructor <;> simp
  have hstat : StatKept k s (s.sendFrame cs) :=
    ((setIm_statKept true).trans (sendPixels_statKept cs _)).trans (hclose _)
  exact .of_frame_strip (by rw [State.sendFrame_frame]) hstat

theorem showStrip_ran (e : s.showStrip = .next t) : Ran k s t := by
  obtain ⟨cs, -, rfl⟩ := State.showStrip_next e
  exact sendFrame_ran cs

/-! ### Samples, waits and the environment -/

theorem elapse_ran (m : Nat) : Ran k s (s.elapse m) :=
  .of_frame_strip rfl (.of_eq _ rfl)

theorem latchGap_ran : Ran k s s.latchGap :=
  .of_frame_strip rfl (.of_eq _ rfl)

theorem setHold_ran (w : Hold) : Ran k s (s.setHold w) :=
  .of_frame_strip rfl (.of_eq _ rfl)

theorem setIm_ran (b : Bool) : Ran k s (s.setIm b) :=
  .of_frame_strip rfl (setIm_statKept b)

theorem sampleButton_ran : Ran k s s.sampleButton :=
  .of_frame_strip rfl (by constructor <;> simp)

theorem sampleCounter_ran : Ran k s s.sampleCounter :=
  .of_frame_strip rfl (.of_eq _ rfl)

/-- A wait is only ever completed, or begun, outside the critical section (40_transmitter.md R137). -/
theorem unlessCritical_next {r : Result} (e : unlessCritical s r = .next t) : s.im = false ∧ r = .next t := by
  cases him : s.im with
  | true => rw [unlessCritical_of_im him] at e; cases e
  | false => exact ⟨rfl, by rwa [unlessCritical_of_not_im him] at e⟩

theorem waitDelay_ran {u : DelayUnit} {n : Nat} {finish : State → State} (hf : ∀ v, Ran k v (finish v))
    (e : s.waitDelay u n finish = .next t) : Ran k s t := by
  have hwait (w : Hold) (v : Env) : Ran k s { s with hold := w, env := v } :=
    .of_frame_strip rfl (.of_eq _ rfl)
  obtain ⟨-, rfl⟩ | ⟨-, -, -, rfl⟩ | ⟨-, -, -, rfl⟩ | ⟨-, -, rfl⟩ := State.waitDelay_next e
  · exact (setHold_ran _).trans (hf _)
  · exact (hwait _ _).trans (hf _)
  · exact hwait _ _
  · exact hwait _ _

/-- Moves of the environment are within every scope: of STAT they can only set WAKE. -/
theorem EnvMoved.ran (h : EnvMoved s t) : Ran k s t := by
  have hbit {j : Nat} (hj : j ≠ 0) : t.stat.getLsbD j = s.stat.getLsbD j := h.stat_bit hj
  exact .of_frame_strip (by rw [h.eq])
    { man := hbit (by decide), barm := hbit (by decide), tarmKept := fun _ => hbit (by decide)
      tarm := (hbit (by decide)).trans, oe := (hbit (by decide)).trans, wake := fun _ => h.wake
      dout := (hbit (by decide)).trans }

end

/-! ### The animation -/

section
variable {k : Scope} {s t : State}

theorem scatter_ran (n : Nat) (e : scatter n s = .next t) : Ran k s t := by
  induction n generalizing s with
  | zero => cases e; exact .refl _ _
  | succ n ih =>
    obtain ⟨s1, e1, e⟩ := andThen_eq_next.1 e
    obtain ⟨s2, e2, e⟩ := andThen_eq_next.1 e
    obtain ⟨s3, e3, e⟩ := andThen_eq_next.1 e
    exact (((prngNext_ran e1).trans (prngNext_ran e2)).trans (storePixel_ran e3)).trans (ih e)

/-- A loop keeps what its body keeps, at every state the loop can reach. -/
theorem forEach_ran {f : Nat → State → Result} {ps : List Nat}
    (hf : ∀ p ∈ ps, ∀ u v, u.par = s.par → f p u = .next v → Ran k u v) (e : forEach f ps s = .next t) :
    Ran k s t := by
  induction ps generalizing s with
  | nil => cases e; exact .refl _ _
  | cons p ps ih =>
    obtain ⟨u, hu, e⟩ := andThen_eq_next.1 e
    have hsu : Ran k s u := hf p (List.mem_cons_self ..) s u rfl hu
    exact hsu.trans (ih (fun q hq v w hv => hf q (List.mem_cons_of_mem _ hq) v w (hv.trans hsu.par)) e)

theorem randomPixel_ran {p : Nat} (e : randomPixel p s = .next t) : Ran k s t := by
  obtain ⟨u, e1, e2⟩ := andThen_eq_next.1 e
  exact (prngNext_ran e1).trans (storePixel_ran e2)

theorem ofNat8_toNat_of_lt {n : Nat} (h : n < 256) : (BitVec.ofNat 8 n).toNat = n := by
  rw [BitVec.toNat_ofNat]
  exact Nat.mod_eq_of_lt h

/-- A hue reduced modulo 192 is a hue. -/
theorem ofNat8_mod_192_le (n : Nat) : (BitVec.ofNat 8 (n % 192)).toNat ≤ 191 := by
  have := Nat.mod_lt n (show 0 < 192 by decide)
  rw [ofNat8_toNat_of_lt (by omega)]
  omega

/-- An index reduced modulo N is an index (20_memory.md R73). -/
theorem ofNat8_mod_lt {n : Nat} (hn : 1 ≤ n ∧ n ≤ 255) (i : Nat) : (BitVec.ofNat 8 (i % n)).toNat < n := by
  have := Nat.mod_lt i hn.1
  rw [ofNat8_toNat_of_lt (by omega)]
  exact this

theorem driftPixel_ran {p : Nat} (hp : p < s.par.n) (e : driftPixel p s = .next t) : Ran k s t := by
  obtain ⟨u, e1, e2⟩ := andThen_eq_next.1 e
  cases e2
  have hsu : Ran k s u := prngNext_ran e1
  refine hsu.trans (putEntry_ran (fun _ => by rwa [hsu.par]) (fun _ => ?_) fun h => ?_)
  · rw [driftHue, entryHue_withHue]
    exact ofNat8_mod_192_le _
  · rw [driftHue, entryLevel_withHue]
    exact (h.range.read p).2

theorem stepComets_ran : Ran .animation s s.stepComets :=
  .of_animation rfl fun h =>
    { h with
      cometHues := ⟨by simpa [stepComet] using ofNat8_mod_192_le _, by simpa [stepComet] using ofNat8_mod_192_le _⟩
      cometIdxs := ⟨by simpa [stepComet] using ofNat8_mod_lt h.legal.1 _,
        by simpa [stepComet] using ofNat8_mod_lt h.legal.1 _⟩ }

theorem setAst_ran (a : BitVec 3) : Ran .animation s { s with ast := a } := .of_animation rfl fun h => { h with }

theorem advanceAst_ran : Ran .animation s s.advanceAst :=
  .of_animation rfl fun h =>
    { h with tcnt := Nat.lt_of_lt_of_le Nat.zero_lt_one h.legal.2.2.1.1 }

theorem execFx0_ran (e : execFx0 s = .next t) : Ran .animation s t := by
  cases e
  refine .of_animation rfl fun h => ?_
  have hn := h.legal.1
  have hmid : (BitVec.ofNat 8 (s.par.n / 2)).toNat = s.par.n / 2 := ofNat8_toNat_of_lt (by omega)
  exact
    { h with
      cometHues := by simp
      cometIdxs := by
        simp only [cometIdx_mkComet, hmid]
        exact ⟨hn.1, by omega⟩ }

theorem execFx1_ran (e : execFx1 s = .next t) : Ran .animation s t := by
  obtain ⟨s1, e1, e⟩ := andThen_eq_next.1 e
  obtain ⟨s2, e2, e⟩ := andThen_eq_next.1 e
  exact (((fadeStrip_ran.trans stepComets_ran).trans (storePixel_ran e1)).trans (storePixel_ran e2)).trans
    (showStrip_ran e)

theorem execFx2_ran (e : execFx2 s = .next t) : Ran .animation s t := by
  obtain ⟨s1, e1, e⟩ := andThen_eq_next.1 e
  obtain ⟨s2, e2, e⟩ := andThen_eq_next.1 e
  exact ((fadeStrip_ran.trans (prngNext_ran e1)).trans (scatter_ran _ e2)).trans (showStrip_ran e)

theorem execFx3_ran (e : execFx3 s = .next t) : Ran .animation s t := by
  obtain ⟨s1, e1, e⟩ := andThen_eq_next.1 e
  obtain ⟨s2, e2, e⟩ := andThen_eq_next.1 e
  cases e
  exact ((forEach_ran (fun _ _ _ _ _ => randomPixel_ran) e1).trans (showStrip_ran e2)).trans (setAst_ran 4)

theorem execFx4_ran (e : execFx4 s = .next t) : Ran .animation s t := by
  obtain ⟨s1, e1, e⟩ := andThen_eq_next.1 e
  refine (forEach_ran (fun p hp u _ hu => driftPixel_ran ?_) e1).trans (showStrip_ran e)
  rw [hu]
  exact List.mem_range.1 hp

theorem execFx5_ran (e : execFx5 s = .next t) : Ran .animation s t := by
  obtain ⟨s1, e1, e⟩ := andThen_eq_next.1 e
  obtain ⟨s2, e2, e⟩ := andThen_eq_next.1 e
  cases e
  exact ((forEach_ran (fun _ _ _ _ _ => storePixel_ran) e1).trans (showStrip_ran e2)).trans (setAst_ran 6)

theorem execFx6_ran (e : execFx6 s = .next t) : Ran .animation s t := rotateStrip_ran.trans (showStrip_ran e)

theorem execFx7_ran (e : execFx7 s = .next t) : Ran .animation s t := by
  obtain ⟨s1, e1, e⟩ := andThen_eq_next.1 e
  have hgh : Ran .animation s { s with ghue := BitVec.ofNat 8 ((s.ghue.toNat + 1) % 192) } :=
    .of_animation rfl fun h => { h with ghue := ofNat8_mod_192_le _ }
  exact (hgh.trans (fillStrip_ran e1)).trans (showStrip_ran e)

/-- ATICK keeps TCNT below AUTO_TICKS: it counts on only where the next value is still below. -/
theorem execAtick_ran (e : execAtick s = .next t) : Ran .animation s t := by
  unfold execAtick at e
  split at e
  · cases e
    exact advanceAst_ran
  · rename_i hne
    cases e
    refine .of_animation rfl fun h => { h with tcnt := ?_ }
    have hlt := h.tcnt
    have hle := h.legal.2.2.1.2
    show (s.tcnt + 1).toNat < s.par.autoTicks
    rw [BitVec.toNat_add]
    show (s.tcnt.toNat + 1) % 256 < s.par.autoTicks
    omega

/-! ### The game -/

theorem renderGame_ran (e : s.renderGame = .next t) : Ran k s t := by
  obtain ⟨s1, e1, e⟩ := andThen_eq_next.1 e
  obtain ⟨s2, e2, e⟩ := andThen_eq_next.1 e
  exact ((clearStrip_ran.trans (storePixel_ran e1)).trans (storePixel_ran e2)).trans (showStrip_ran e)

theorem relocateDeer_ran (r : Nat) (v : Word) : Ran .game s { s.relocateDeer r with speed := v } :=
  .of_game rfl fun h => { h with deer := ofNat8_mod_lt h.legal.1 _ }

theorem gameReset_ran (e : s.gameReset = .next t) : Ran .game s t := by
  obtain ⟨s1, e1, e⟩ := andThen_eq_next.1 e
  exact ((prngNext_ran e1).trans (relocateDeer_ran _ _)).trans (renderGame_ran e)

theorem gameCatch_ran (e : s.gameCatch = .next t) : Ran .game s t := by
  obtain ⟨s1, e1, e⟩ := andThen_eq_next.1 e
  exact ((prngNext_ran e1).trans (relocateDeer_ran _ _)).trans (renderGame_ran e)

theorem gameStep_ran (e : s.gameStep = .next t) : Ran .game s t := by
  have hmove : Ran .game s { s with hunter := stepHunter s.par.n s.dir s.hunter, deadline := s.tnow + s.speed } :=
    .of_game rfl fun h => { h with hunter := ofNat8_mod_lt h.legal.1 _ }
  exact hmove.trans (renderGame_ran e)

theorem pollTime_ran (e : s.pollTime = .next t) : Ran .game s t := by
  unfold State.pollTime at e
  split at e
  · split at e
    · exact gameReset_ran e
    · exact gameStep_ran e
  · cases e
    exact .refl _ _

theorem pollButton_ran (e : s.pollButton = .next t) : Ran .game s t := by
  unfold State.pollButton at e
  split at e
  · split at e
    · exact gameCatch_ran e
    · exact gameReset_ran e
  · cases e
    exact .refl _ _

theorem execGinit_ran (e : execGinit s = .next t) : Ran .game s t := by
  have hdl (u : State) (d : Word) : Ran .game u { u with deadline := d } := .of_game rfl fun h => { h with }
  exact (sampleCounter_ran.trans (hdl _ _)).trans (gameReset_ran e)

theorem execGpoll_ran (e : execGpoll s = .next t) : Ran .game s t := by
  obtain ⟨s1, e1, e⟩ := andThen_eq_next.1 e
  exact (((sampleCounter_ran.trans (pollTime_ran e1)).trans s1.envInside_moved.ran).trans sampleButton_ran).trans
    (pollButton_ran e)

/-! ### The system operations -/

theorem execPincfg_ran (e : execPincfg s = .next t) : Ran k s t := by
  cases e
  exact .of_frame_strip rfl (by constructor <;> simp)

theorem execWfe_ran (e : execWfe s = .next t) : Ran .wake s t := by
  obtain ⟨-, e⟩ := unlessCritical_next e
  have hclear : Ran .wake s (s.setWake false) :=
    .of_frame_strip rfl (by constructor <;> simp)
  split at e
  · cases e
    exact (hclear.trans (setHold_ran _)).trans (elapse_ran _)
  · cases e
    exact setHold_ran _

theorem execArmwake_ran {n : BitVec 24} (e : execArmwake n s = .next t) : Ran .timer s t := by
  unfold execArmwake at e
  split at e
  · cases e
  · cases e
    have hreq : Ran .timer s { s with armMs := some n } :=
      .of_frame_strip rfl (.of_eq _ rfl)
    exact hreq.trans (.of_frame_strip rfl (by constructor <;> simp))

theorem execIrqon_ran (e : execIrqon s = .next t) : Ran k s t := by
  unfold execIrqon at e
  split at e
  · cases e
    exact (setIm_ran false).trans (elapse_ran _)
  · cases e
    exact .refl _ _

theorem execWaitrel_ran (e : execWaitrel s = .next t) : Ran k s t := by
  obtain ⟨-, e⟩ := unlessCritical_next e
  dsimp only at e
  split at e
  · cases e
    exact sampleButton_ran.trans (setHold_ran _)
  · cases e
    exact (sampleButton_ran.trans (setHold_ran _)).trans (elapse_ran _)

/-- Every operation stays within its scope. -/
theorem exec_ran {i : Instr} (e : exec i s = .next t) : Ran (scopeOf i) s t := by
  cases i with
  | sendbit b => cases e; exact sendBit_ran _
  | sendbyte v => cases e; exact sendByte_ran v
  | sendcolor r g b => cases e; exact sendColor_ran _
  | latch => exact waitDelay_ran (fun _ => latchGap_ran) (unlessCritical_next e).2
  | showFrame => exact showStrip_ran e
  | hue2rgb h l => exact putColour_ran e
  | hue2rgbl h => exact putColour_ran e
  | pxset i h l => exact storePixel_ran e
  | pxget i => cases e; exact .of_frame_strip rfl (.of_eq _ rfl)
  | fade => cases e; exact fadeStrip_ran
  | clear => cases e; exact clearStrip_ran
  | fill h l => exact fillStrip_ran e
  | rotate => cases e; exact rotateStrip_ran
  | rnext m => exact prngNext_ran e
  | fx0 => exact execFx0_ran e
  | fx1 => exact execFx1_ran e
  | fx2 => exact execFx2_ran e
  | fx3 => exact execFx3_ran e
  | fx4 => exact execFx4_ran e
  | fx5 => exact execFx5_ran e
  | fx6 => exact execFx6_ran e
  | fx7 => exact execFx7_ran e
  | anext => cases e; exact advanceAst_ran
  | atick => exact execAtick_ran e
  | greset => exact gameReset_ran e
  | gstep => exact gameStep_ran e
  | gcatch => exact gameCatch_ran e
  | grender => exact renderGame_ran e
  | gpoll => exact execGpoll_ran e
  | ginit => exact execGinit_ran e
  | wfe => exact execWfe_ran e
  | armwake n => exact execArmwake_ran e
  | delayus n => exact waitDelay_ran (fun _ => elapse_ran _) (unlessCritical_next e).2
  | delayms n => exact waitDelay_ran (fun _ => elapse_ran _) (unlessCritical_next e).2
  | rdcnt => cases e; exact sampleCounter_ran
  | rdbtn => cases e; exact sampleButton_ran
  | irqoff => cases e; exact setIm_ran true
  | irqon => exact execIrqon_ran e
  | waitrel => exact execWaitrel_ran e
  | pincfg => exact execPincfg_ran e

end

/-- Only WFE has the scope that clears STAT.WAKE. -/
theorem scopeOf_ne_wake {i : Instr} (h : i ≠ .wfe) : scopeOf i ≠ .wake := by
  cases i with
  | wfe => exact absurd rfl h
  | _ => nofun

/-- Settles O55: the scope of each operation says it, and only WFE's lets STAT.WAKE go. -/
theorem operationsKeepTheControlState : Obligations.OperationsKeepTheControlState := by
  intro i s t e
  have h := exec_ran e
  exact ⟨h.cfg, h.seq, h.part, h.par, h.pending, h.stat.man, h.stat.barm, h.stat.tarm, h.stat.oe,
    fun hi => h.stat.wake (scopeOf_ne_wake hi)⟩

end Sys2Proof.Machine
end

section
/-! PROOFS. The moves of the sequencer, the whole step, and reset: whose registers each label writes (10_state.md R57),
and the range invariants (R56, R58); the conversion of SHOW by the strap (41_color_model.md R154). -/

namespace Sys2Proof.Machine

/-! ### The labels of the sequencer -/

theorem labelOf_eq_some {c : BitVec 4} {l : Label} (h : labelOf c = some l) : c = labelCode l := by
  revert c
  cases l <;> decide

theorem labelCode_le (l : Label) : (labelCode l).toNat ≤ 10 := by cases l <;> decide

/-- With no client, CORE's move is that of the label that SEQ codes. -/
theorem coreStep_next_of_label {s t : State} (hp : s.pending = []) (e : coreStep s = .next t) :
    ∃ l, s.seq = labelCode l ∧ seqLabel l s = .next t := by
  simp only [coreStep, hp, seqStep] at e
  split at e
  · rename_i l hl
    exact ⟨l, labelOf_eq_some hl, e⟩
  · cases e

/-- SEQ after an operation of a label: the label goes on, or the next one starts at its first operation. -/
theorem State.goto_seq_part (l : Label) (s : State) :
    ((s.goto l).seq = s.seq ∧ (s.goto l).part = s.part) ∨
      ((s.goto l).seq = labelCode l ∧ (s.goto l).part = .first) := by
  by_cases h : s.hold = .running
  · rw [State.goto_of_running h]
    exact .inr ⟨rfl, rfl⟩
  · rw [State.goto_of_holding h]
    exact .inl ⟨rfl, rfl⟩

/-! ### Each engine writes its own registers -/

@[simp] theorem State.goto_gameRegs (l : Label) (s : State) : (s.goto l).gameRegs = s.gameRegs := by
  simp [State.gameRegs]

@[simp] theorem State.goto_animationRegs (l : Label) (s : State) :
    (s.goto l).animationRegs = s.animationRegs := by simp [State.animationRegs]

theorem scopeOf_fxOf (a : BitVec 3) : scopeOf (fxOf a) = .animation := by
  unfold fxOf
  split <;> rfl

/-- A move of the sequencer at the labels of the animation. -/
structure AnimationMove (s t : State) : Prop where
  label : t.seq.toNat ≤ 6
  game : t.gameRegs = s.gameRegs

/-- SEQ is at a label of the game, or at PINCFG of BOOT. -/
def AtGameLabel (s : State) : Prop := (s.seq = 0 ∧ s.part = .first) ∨ (7 ≤ s.seq.toNat ∧ s.seq.toNat ≤ 10)

/-- A move of the sequencer at the labels of the game. -/
structure GameMove (s t : State) : Prop where
  label : AtGameLabel t
  animation : t.animationRegs = s.animationRegs
  man : t.man = s.man
  tarm : t.tarm = s.tarm
  barm : t.barm = s.barm

section
variable {k : Scope} {s t u : State} {i : Instr} {l : Label}

theorem Ran.animationMove_goto (h : Ran k s u) (hk : k ≠ .game) (hs : s.seq.toNat ≤ 6)
    (hl : (labelCode l).toNat ≤ 6) : AnimationMove s (u.goto l) where
  label := by
    obtain ⟨hq, -⟩ | ⟨hq, -⟩ := State.goto_seq_part l u <;> rw [hq]
    · rwa [h.seq]
    · exact hl
  game := by rw [State.goto_gameRegs, h.game hk]

theorem issueThen_animationMove (e : issueThen i l s = .next t) (hk : scopeOf i ≠ .game) (hs : s.seq.toNat ≤ 6)
    (hl : (labelCode l).toNat ≤ 6) : AnimationMove s t := by
  obtain ⟨u, hu, rfl⟩ := issueThen_next e
  exact (exec_ran hu).animationMove_goto hk hs hl

theorem Ran.animationMove_goPart (h : Ran k s u) (hk : k ≠ .game) (hs : s.seq.toNat ≤ 6) (p : LabelPart) :
    AnimationMove s (u.goPart p) where
  label := by rwa [State.goPart_seq, h.seq]
  game := h.game hk

theorem seqBoot_animationMove (hs : s.seq.toNat ≤ 6) (heng : s.engine = false) (e : seqBoot s = .next t) :
    AnimationMove s t := by
  unfold seqBoot at e
  split at e
  · obtain ⟨u, hu, e⟩ := andThen_eq_next.1 e
    have hsu := exec_ran hu
    have hengu : u.engine = false := by rwa [State.engine, hsu.cfg]
    simp only [hengu, Bool.false_eq_true, if_false] at e
    cases e
    exact hsu.animationMove_goPart nofun hs _
  · obtain ⟨u, hu, e⟩ := andThen_eq_next.1 e
    cases e
    have hsu := exec_ran hu
    exact ⟨by simpa [hsu.seq] using hs, hsu.game nofun⟩
  · refine issueThen_animationMove e nofun hs ?_
    split <;> decide

theorem seqTick_animationMove (hs : s.seq.toNat ≤ 6) (e : seqTick s = .next t) : AnimationMove s t := by
  unfold seqTick at e
  split at e
  · cases e
    exact (Ran.refl .shared s).animationMove_goto nofun hs (by decide)
  · exact issueThen_animationMove e nofun hs (by decide)

theorem seqBtn_animationMove (hs : s.seq.toNat ≤ 6) (e : seqBtn s = .next t) : AnimationMove s t := by
  unfold seqBtn at e
  split at e
  · split at e
    · obtain ⟨u, hu, e⟩ := andThen_eq_next.1 e
      cases e
      have hsu := exec_ran hu
      split
      · exact hsu.animationMove_goPart nofun hs _
      · exact hsu.animationMove_goto nofun hs (by decide)
    · cases e
      exact (Ran.refl .shared s).animationMove_goto nofun hs (by decide)
  · exact issueThen_animationMove e nofun hs (by decide)
  · exact issueThen_animationMove e nofun hs (by decide)

/-- With the AnimationEngine, every label of its programme stays within it. -/
theorem seqLabel_animationMove (hl : s.seq = labelCode l) (hs : s.seq.toNat ≤ 6) (heng : s.engine = false)
    (e : seqLabel l s = .next t) : AnimationMove s t := by
  cases l with
  | boot => exact seqBoot_animationMove hs heng e
  | aExec =>
    refine issueThen_animationMove e ?_ hs (by decide)
    rw [expand, scopeOf_fxOf]
    nofun
  | aTick => exact seqTick_animationMove hs e
  | aSleep => exact issueThen_animationMove e nofun hs (by decide)
  | aBtn => exact seqBtn_animationMove hs e
  | aHold => exact issueThen_animationMove e nofun hs (by decide)
  | aSettle => exact issueThen_animationMove e nofun hs (by decide)
  | gInit | gPoll | gHold | gSettle =>
    rw [hl] at hs
    exact absurd hs (by decide)

theorem Ran.gameMove_goto (h : Ran k s u) (hk : k ≠ .animation) (ha : k ≠ .timer) (hs : AtGameLabel s)
    (hl : 7 ≤ (labelCode l).toNat) : GameMove s (u.goto l) where
  label := by
    obtain ⟨hq, hp⟩ | ⟨hq, -⟩ := State.goto_seq_part l u <;> rw [AtGameLabel, hq]
    · rwa [hp, h.seq, h.part]
    · exact .inr ⟨hl, labelCode_le l⟩
  animation := by rw [State.goto_animationRegs, h.animation hk]
  man := by rw [State.goto_man, h.stat.man]
  tarm := by rw [State.goto_tarm, h.stat.tarmKept ha]
  barm := by rw [State.goto_barm, h.stat.barm]

theorem issueThen_gameMove (e : issueThen i l s = .next t) (hk : scopeOf i ≠ .animation) (ha : scopeOf i ≠ .timer)
    (hs : AtGameLabel s) (hl : 7 ≤ (labelCode l).toNat) : GameMove s t := by
  obtain ⟨u, hu, rfl⟩ := issueThen_next e
  exact (exec_ran hu).gameMove_goto hk ha hs hl

/-- With the GameEngine, PINCFG is the one operation of BOOT, and every label of the game stays within it. -/
theorem seqLabel_gameMove (hl : s.seq = labelCode l) (hs : AtGameLabel s) (heng : s.engine = true)
    (e : seqLabel l s = .next t) : GameMove s t := by
  cases l with
  | boot =>
    have hpart : s.part = .first := by
      obtain ⟨-, hpart⟩ | ⟨hge, -⟩ := hs
      · exact hpart
      · rw [hl] at hge
        exact absurd hge (by decide)
    rw [seqLabel, seqBoot, hpart] at e
    obtain ⟨u, hu, e⟩ := andThen_eq_next.1 e
    have hsu := exec_ran hu
    have hengu : u.engine = true := by rwa [State.engine, hsu.cfg]
    simp only [hengu, if_true] at e
    cases e
    exact hsu.gameMove_goto nofun nofun hs (by decide)
  | gInit => exact issueThen_gameMove e nofun nofun hs (by decide)
  | gPoll =>
    obtain ⟨u, hu, e⟩ := andThen_eq_next.1 e
    cases e
    refine (exec_ran hu).gameMove_goto nofun nofun hs ?_
    split <;> decide
  | gHold => exact issueThen_gameMove e nofun nofun hs (by decide)
  | gSettle => exact issueThen_gameMove e nofun nofun hs (by decide)
  | aExec | aTick | aSleep | aBtn | aHold | aSettle =>
    rw [AtGameLabel, hl] at hs
    exact absurd hs (by simp [labelCode])

end

/-- Settles O56: the moves of the running engine's labels, label by label. -/
theorem enginesOwnTheirRegisters : Obligations.EnginesOwnTheirRegisters := by
  intro s t hp e
  obtain ⟨l, hl, e⟩ := coreStep_next_of_label hp e
  constructor
  · intro heng hs
    have h := seqLabel_animationMove hl hs heng e
    have hregs := h.game
    simp only [State.gameRegs, Prod.mk.injEq] at hregs
    exact ⟨h.label, hregs⟩
  · intro heng hs
    have h := seqLabel_gameMove hl hs heng e
    have hregs := h.animation
    simp only [State.animationRegs, Prod.mk.injEq] at hregs
    obtain ⟨hast, htcnt, hca, hcb, hghue⟩ := hregs
    exact ⟨h.label, hast, htcnt, hca, hcb, hghue, h.man, h.tarm, h.barm⟩

/-! ### The ranges -/

theorem State.InRange.registers {s : State} (h : s.InRange) : RegistersInRange s := by
  obtain ⟨hp, -, hw, hs, ⟨hca, hcb, hgh⟩, hidx, ⟨hhu, hde⟩, htc, -⟩ := h
  exact ⟨hp, hw, hs, ⟨hca, hcb⟩, hgh, hidx, hhu, hde, htc⟩

/-- An operation of any scope keeps the range invariants. -/
theorem Ran.inRange {k : Scope} {s t : State} (h : Ran k s t) (hs : s.InRange) : t.InRange := by
  have r := h.ranges hs.registers
  obtain ⟨-, hcfg, -, -, -, -, -, -, hseq, hdout, hpart⟩ := hs
  exact ⟨r.legal, by rwa [h.cfg, h.par], r.wf, r.strip, ⟨r.cometHues.1, r.cometHues.2, r.ghue⟩, r.cometIdxs,
    ⟨r.hunter, r.deer⟩, r.tcnt, by rwa [h.seq], h.stat.dout hdout, by rwa [h.seq, h.part]⟩

section
variable {s t : State}

/-- A write of the position in the programme keeps the ranges when the label has that position. -/
theorem State.InRange.place (h : s.InRange) {q : BitVec 4} {p : LabelPart} (hq : q.toNat ≤ 10)
    (hp : p = .first ∨ q = 0 ∨ (q = 4 ∧ p = .second)) : ({ s with seq := q, part := p } : State).InRange := by
  obtain ⟨hpar, hcfg, hwf, hstrip, hhue, hidx, hgame, htcnt, -, hdout, -⟩ := h
  exact ⟨hpar, hcfg, hwf, hstrip, hhue, hidx, hgame, htcnt, hq, hdout, hp⟩

theorem State.InRange.goto (h : s.InRange) (l : Label) : (s.goto l).InRange := by
  by_cases hr : s.hold = .running
  · rw [State.goto_of_running hr]
    exact h.place (labelCode_le l) (.inl rfl)
  · rwa [State.goto_of_holding hr]

/-- BOOT has all three positions, A_BTN the second (46_system.md R267, R271). -/
theorem State.InRange.goPart (h : s.InRange) {p : LabelPart} (hp : s.seq = 0 ∨ (s.seq = 4 ∧ p = .second)) :
    (s.goPart p).InRange := by
  have hq : s.seq.toNat ≤ 10 := by obtain hq | ⟨hq, -⟩ := hp <;> simp [hq]
  exact h.place hq (.inr hp)

theorem State.InRange.takeMode (h : s.InRange) : s.takeMode.InRange := by
  obtain ⟨hpar, hcfg, hwf, hstrip, hhue, hidx, hgame, htcnt, hseq, hdout, hpart⟩ := h
  exact ⟨hpar, hcfg, hwf, hstrip, hhue, hidx, hgame, htcnt, hseq, by simpa using hdout, hpart⟩

theorem State.InRange.retire (h : s.InRange) : s.retire.InRange := by
  unfold State.retire
  split <;> exact h

theorem issueThen_inRange {i : Instr} {l : Label} (h : s.InRange) (e : issueThen i l s = .next t) : t.InRange := by
  obtain ⟨u, hu, rfl⟩ := issueThen_next e
  exact ((exec_ran hu).inRange h).goto l

theorem seqBoot_inRange (h : s.InRange) (hq : s.seq = 0) (e : seqBoot s = .next t) : t.InRange := by
  unfold seqBoot at e
  split at e
  · obtain ⟨u, hu, e⟩ := andThen_eq_next.1 e
    cases e
    have hsu := exec_ran hu
    split
    · exact (hsu.inRange h).goto _
    · exact (hsu.inRange h).goPart (.inl (hsu.seq.trans hq))
  · obtain ⟨u, hu, e⟩ := andThen_eq_next.1 e
    cases e
    have hsu := exec_ran hu
    exact (hsu.inRange h).takeMode.goPart (.inl (hsu.seq.trans hq))
  · exact issueThen_inRange h e

theorem seqTick_inRange (h : s.InRange) (e : seqTick s = .next t) : t.InRange := by
  unfold seqTick at e
  split at e
  · cases e
    exact h.goto _
  · exact issueThen_inRange h e

theorem seqBtn_inRange (h : s.InRange) (hq : s.seq = 4) (e : seqBtn s = .next t) : t.InRange := by
  unfold seqBtn at e
  split at e
  · split at e
    · obtain ⟨u, hu, e⟩ := andThen_eq_next.1 e
      cases e
      have hsu := exec_ran hu
      split
      · exact (hsu.inRange h).goPart (.inr ⟨hsu.seq.trans hq, rfl⟩)
      · exact (hsu.inRange h).goto _
    · cases e
      exact h.goto _
  · exact issueThen_inRange h e
  · exact issueThen_inRange h e

/-- Every label of the sequencer keeps the ranges. -/
theorem seqLabel_inRange {l : Label} (h : s.InRange) (hl : s.seq = labelCode l) (e : seqLabel l s = .next t) :
    t.InRange := by
  cases l with
  | boot => exact seqBoot_inRange h hl e
  | aTick => exact seqTick_inRange h e
  | aBtn => exact seqBtn_inRange h hl e
  | gPoll =>
    obtain ⟨u, hu, e⟩ := andThen_eq_next.1 e
    cases e
    exact ((exec_ran hu).inRange h).goto _
  | aExec | aSleep | aHold | aSettle | gInit | gHold | gSettle => exact issueThen_inRange h e

/-- CORE's move keeps the ranges, whoever issued the operation. -/
theorem coreStep_inRange (h : s.InRange) (e : coreStep s = .next t) : t.InRange := by
  cases hp : s.pending with
  | nil =>
    obtain ⟨l, hl, e⟩ := coreStep_next_of_label hp e
    exact seqLabel_inRange h hl e
  | cons w ws =>
    rw [coreStep, hp] at e
    simp only [issueWord] at e
    split at e
    · cases e
    · obtain ⟨u, hu, e⟩ := andThen_eq_next.1 e
      cases e
      exact ((exec_ran hu).inRange h).retire

end

/-- Every legal choice of parameters resets into the ranges (10_state.md R58). -/
theorem resetOf_inRange {p : Config.Params} (hp : p.Legal) : (State.resetOf p).InRange := by
  have hn : 0 < p.n := hp.1.1
  have ht : 0 < p.autoTicks := hp.2.2.1.1
  have hhue : (cometHue 0).toNat ≤ 191 := by decide
  have hdout : (State.resetOf p).dout = false := by simp [State.dout, State.resetOf]
  exact ⟨hp, rfl, Memory.wf_nil, nofun, ⟨hhue, hhue, Nat.zero_le _⟩, ⟨hn, hn⟩, ⟨hn, hn⟩, ht,
    Nat.zero_le _, hdout, .inl rfl⟩

/-- The reset pin resets into the ranges, whatever it leaves of the environment and of the draws. -/
theorem State.InRange.powerOn {s : State} (h : s.InRange) : s.powerOn.InRange := resetOf_inRange h.1

theorem State.InRange.envTurn {s : State} (h : s.InRange) : s.envTurn.InRange := by
  obtain hm | ⟨u, hm, hu⟩ := s.envTurn_cases
  · exact (hm.ran (k := .shared)).inRange h
  · rw [hu]
    exact ((hm.ran (k := .shared)).inRange h).powerOn

/-- Settles O58: CORE's move keeps the ranges, then the environment's turn does. -/
theorem stepKeepsTheRanges : Obligations.StepKeepsTheRanges := by
  intro s t hs e
  obtain ⟨u, hu, e⟩ := andThen_eq_next.1 e
  cases e
  exact (coreStep_inRange hs hu).envTurn

/-- Settles O57: every clause by what State.resetOf writes; nothing is on the wire, so the chain has received nothing. -/
theorem resetIsInRange : Obligations.ResetIsInRange := by
  have hoe (p : Config.Params) : (State.resetOf p).oe = false := by simp [State.oe, State.resetOf]
  refine ⟨fun p hp => ⟨resetOf_inRange hp, ⟨rfl, rfl⟩, .inr ⟨rfl, rfl⟩, hoe p, rfl⟩, ?_⟩
  decide

/-! ### The conversion of SHOW -/

/-- Settles O15: the two branches of `convert`, each the conversion whose triplet the operation leaves in RGB. -/
theorem convertFollowsTheStrap : Obligations.ConvertFollowsTheStrap := by
  intro s t e
  refine ⟨⟨rfl, rfl, rfl⟩, fun hc hx => ?_, fun hc h0 => ?_, fun hc h0 hx => ?_⟩
  · have hcvar : s.cvar = false := hc
    rw [convert, hcvar, if_neg Bool.false_ne_true]
    exact (State.putColour_next hx).1
  · have hcvar : s.cvar = true := hc
    rw [convert, if_pos hcvar, if_pos h0]
  · have hcvar : s.cvar = true := hc
    rw [convert, if_pos hcvar, if_neg h0]
    exact (State.putColour_next hx).1

end Sys2Proof.Machine
end

section
/-! PROOFS. The descriptor (30_encoding.md R102 to R121): `decode` and `encode` are inverse to each other, format by
format; a client's descriptor runs its operation or is refused as reserved. -/

namespace Sys2Proof

/-! ### The fields of a word -/

/-- A word is two fields side by side exactly when it reads them. -/
theorem eq_append_iff {m n : Nat} {x : BitVec (m + n)} {a : BitVec m} {b : BitVec n} :
    x = a ++ b ↔ x.extractLsb' n m = a ∧ x.extractLsb' 0 n = b := by
  constructor
  · rintro rfl
    exact ⟨BitVec.extractLsb'_append_eq_left, BitVec.extractLsb'_append_eq_right⟩
  · rintro ⟨rfl, rfl⟩
    exact BitVec.extractLsb'_append_extractLsb'.symm

/-- A field of a field is a field of the word. -/
theorem extractLsb'_extractLsb'_of_le {w i m j n : Nat} {x : BitVec w} (h : j + n ≤ m) :
    (x.extractLsb' i m).extractLsb' j n = x.extractLsb' (i + j) n := by
  ext k hk
  have hkm : j + k < m := by omega
  rw [BitVec.getElem_extractLsb', BitVec.getLsbD_extractLsb', BitVec.getElem_extractLsb', Nat.add_assoc]
  simp [hkm]

/-! ### The formats (R103 to R110): what each accepts is exactly what `encodeArg` writes -/

/-- A check of the bits that must be zero. -/
theorem mustBeZero_eq_ok {c : Prop} [Decidable c] {i j : Instr} :
    (if c then .ok i else .error .reservedBits : Except DecodeError Instr) = .ok j ↔ i = j ∧ c := by
  split <;> simp [*]

section
variable {i j : Instr} {arg : BitVec 24}

theorem decodeF0_eq_ok : decodeF0 i arg = .ok j ↔ i = j ∧ arg = 0 := mustBeZero_eq_ok

theorem decodeFBIT_eq_ok {mk : BitVec 1 → Instr} :
    decodeFBIT mk arg = .ok j ↔ ∃ b, mk b = j ∧ arg = (0 : BitVec 23) ++ b := by
  simp [decodeFBIT, mustBeZero_eq_ok, eq_append_iff (m := 23) (n := 1)]

theorem decodeFB_eq_ok {mk : Byte → Instr} :
    decodeFB mk arg = .ok j ↔ ∃ v, mk v = j ∧ arg = (0 : BitVec 16) ++ v := by
  simp [decodeFB, mustBeZero_eq_ok, eq_append_iff (m := 16) (n := 8)]

theorem decodeFC_eq_ok {mk : Byte → Byte → Byte → Instr} :
    decodeFC mk arg = .ok j ↔ ∃ r g b, mk r g b = j ∧ arg = r ++ g ++ b := by
  simp [decodeFC, eq_append_iff (m := 16) (n := 8), eq_append_iff (m := 8) (n := 8), extractLsb'_extractLsb'_of_le]

theorem decodeFH_eq_ok {mk : Byte → Level → Instr} :
    decodeFH mk arg = .ok j ↔ ∃ h l, mk h l = j ∧ arg = (0 : BitVec 13) ++ l ++ h := by
  simp [decodeFH, mustBeZero_eq_ok, eq_append_iff (m := 16) (n := 8), eq_append_iff (m := 13) (n := 3),
    extractLsb'_extractLsb'_of_le]

theorem decodeFP_eq_ok {mk : Byte → Byte → Level → Instr} :
    decodeFP mk arg = .ok j ↔ ∃ p h l, mk p h l = j ∧ arg = p ++ (0 : BitVec 5) ++ l ++ h := by
  simp [decodeFP, mustBeZero_eq_ok, eq_append_iff (m := 16) (n := 8), eq_append_iff (m := 13) (n := 3),
    eq_append_iff (m := 8) (n := 5), extractLsb'_extractLsb'_of_le]

theorem decodeFI_eq_ok {mk : Byte → Instr} :
    decodeFI mk arg = .ok j ↔ ∃ p, mk p = j ∧ arg = p ++ (0 : BitVec 16) := by
  simp [decodeFI, mustBeZero_eq_ok, eq_append_iff (m := 8) (n := 16)]

theorem decodeFM_eq_ok {mk : BitVec 24 → Instr} : decodeFM mk arg = .ok j ↔ ∃ m, mk m = j ∧ arg = m := by
  simp [decodeFM]

/-! ### The table (R101) and the descriptor (R121) -/

/-- Each operation stands in the row of its operation code, whose format reads its operands back. -/
theorem decodeFields_opcode_encodeArg (i : Instr) : decodeFields (opcode i).toNat (encodeArg i) = .ok i := by
  cases i with
  | sendbit b => exact decodeFBIT_eq_ok.2 ⟨b, rfl, rfl⟩
  | sendbyte v | hue2rgbl v => exact decodeFB_eq_ok.2 ⟨v, rfl, rfl⟩
  | sendcolor r g b => exact decodeFC_eq_ok.2 ⟨r, g, b, rfl, rfl⟩
  | hue2rgb h l | fill h l => exact decodeFH_eq_ok.2 ⟨h, l, rfl, rfl⟩
  | pxset p h l => exact decodeFP_eq_ok.2 ⟨p, h, l, rfl, rfl⟩
  | pxget p => exact decodeFI_eq_ok.2 ⟨p, rfl, rfl⟩
  | rnext m | armwake m | delayus m | delayms m => exact decodeFM_eq_ok.2 ⟨m, rfl, rfl⟩
  | latch | showFrame | fade | clear | rotate
  | fx0 | fx1 | fx2 | fx3 | fx4 | fx5 | fx6 | fx7 | anext | atick
  | greset | gstep | gcatch | grender | gpoll | ginit
  | wfe | rdcnt | rdbtn | irqoff | irqon | waitrel | pincfg => exact decodeF0_eq_ok.2 ⟨rfl, rfl⟩

/-- Each row of the table yields only operations with its operation code and the operands in `arg`. -/
theorem opcode_encodeArg_of_decodeFields {op : Nat} (e : decodeFields op arg = .ok i) :
    (opcode i).toNat = op ∧ encodeArg i = arg := by
  unfold decodeFields at e
  split at e
  case h_41 => cases e
  case h_1 => obtain ⟨b, rfl, rfl⟩ := decodeFBIT_eq_ok.1 e; exact ⟨rfl, rfl⟩
  case h_2 | h_7 => obtain ⟨v, rfl, rfl⟩ := decodeFB_eq_ok.1 e; exact ⟨rfl, rfl⟩
  case h_3 => obtain ⟨r, g, b, rfl, rfl⟩ := decodeFC_eq_ok.1 e; exact ⟨rfl, rfl⟩
  case h_6 | h_12 => obtain ⟨h, l, rfl, rfl⟩ := decodeFH_eq_ok.1 e; exact ⟨rfl, rfl⟩
  case h_8 => obtain ⟨p, h, l, rfl, rfl⟩ := decodeFP_eq_ok.1 e; exact ⟨rfl, rfl⟩
  case h_9 => obtain ⟨p, rfl, rfl⟩ := decodeFI_eq_ok.1 e; exact ⟨rfl, rfl⟩
  case h_14 | h_32 | h_33 | h_34 => obtain ⟨m, rfl, rfl⟩ := decodeFM_eq_ok.1 e; exact ⟨rfl, rfl⟩
  all_goals -- the rows without operands
    obtain ⟨rfl, rfl⟩ := decodeF0_eq_ok.1 e
    exact ⟨rfl, rfl⟩

end

theorem decodeFields_eq_ok {op : Nat} {arg : BitVec 24} {i : Instr} :
    decodeFields op arg = .ok i ↔ (opcode i).toNat = op ∧ encodeArg i = arg := by
  refine ⟨opcode_encodeArg_of_decodeFields, ?_⟩
  rintro ⟨rfl, rfl⟩
  exact decodeFields_opcode_encodeArg i

/-- A word is the descriptor of `i` exactly when its two fields are those of `i` (R102). -/
theorem encode_eq_iff {i : Instr} {w : Word} : encode i = w ↔ opcode i = opField w ∧ encodeArg i = argField w := by
  constructor
  · rintro rfl
    obtain ⟨hop, harg⟩ := Laws.fields_of_encode i
    exact ⟨hop.symm, harg.symm⟩
  · rintro ⟨hop, harg⟩
    rw [encode, hop, harg]
    exact (eq_append_iff (m := 8) (n := 24).2 ⟨rfl, rfl⟩).symm

/-- Decoding and encoding are inverse to each other (R121). -/
theorem decode_eq_ok {w : Word} {i : Instr} : decode w = .ok i ↔ encode i = w := by
  rw [decode, decodeFields_eq_ok, BitVec.toNat_inj, encode_eq_iff]

/-- Settles O1: the direction of `decode_eq_ok` that starts from the operation. -/
theorem decodeEncodeAgree : Obligations.DecodeEncodeAgree := fun _ => decode_eq_ok.2 rfl

/-- Settles O2: the eight words are the encodings of their operations; of the two reserved ones, PXSET's sets a bit that
must be zero, and 0x4A is no operation code. -/
theorem sampleWordsDecode : Obligations.SampleWordsDecode :=
  ⟨decode_eq_ok.2 rfl, decode_eq_ok.2 rfl, decode_eq_ok.2 rfl, decode_eq_ok.2 rfl, decode_eq_ok.2 rfl,
    decode_eq_ok.2 rfl, decode_eq_ok.2 rfl, decode_eq_ok.2 rfl, rfl, rfl⟩

end Sys2Proof

namespace Sys2Proof.Machine

/-! ### Why an operation is refused (60_exceptions.md R291) -/

/-- The reasons of R291 for which an operation that runs is refused. The others belong to a word that does not decode, a
SEQ that is no label, and an operation without a meaning. -/
def operationRefusals : List Refusal := [.hueOutOfRange, .levelOutOfRange, .zeroModulus, .zeroPeriod, .holdInCritical]

/-- A refusal, if the outcome is one, is the operation's own. -/
def OwnRefusal (r : Result) : Prop := ∀ q, r = .refused q → q ∈ operationRefusals

/-- A sequence is refused exactly when its first part is, or its second after the first. -/
theorem andThen_eq_refused {r : Result} {f : State → Result} {q : Refusal} :
    andThen r f = .refused q ↔ r = .refused q ∨ ∃ s, r = .next s ∧ f s = .refused q := by
  cases r with
  | next s => simp
  | fault e => cases e
  | refused q' => simp

theorem ownRefusal_next (t : State) : OwnRefusal (.next t) := nofun

theorem ownRefusal_refused {q : Refusal} (hq : q ∈ operationRefusals) : OwnRefusal (.refused q) := by
  rintro _ ⟨⟩
  exact hq

theorem OwnRefusal.andThen {r : Result} {f : State → Result} (hr : OwnRefusal r)
    (hf : ∀ s, OwnRefusal (f s)) : OwnRefusal (andThen r f) := by
  intro q e
  obtain e | ⟨s, -, e⟩ := andThen_eq_refused.1 e
  · exact hr q e
  · exact hf s q e

theorem OwnRefusal.ite {c : Prop} [Decidable c] {r r' : Result} (h : OwnRefusal r)
    (h' : OwnRefusal r') : OwnRefusal (if c then r else r') := by
  split
  · exact h
  · exact h'

theorem ownRefusal_forEach {f : Nat → State → Result} (hf : ∀ p s, OwnRefusal (f p s)) (ps : List Nat)
    (s : State) : OwnRefusal (forEach f ps s) := by
  induction ps generalizing s with
  | nil => exact ownRefusal_next s
  | cons p ps ih => exact (hf p s).andThen ih

theorem OwnRefusal.unlessOutOfRange {r : Result} (h : OwnRefusal r) (x : Byte) (l : Level) :
    OwnRefusal (unlessOutOfRange x l r) :=
  .ite (ownRefusal_refused (by decide)) (.ite (ownRefusal_refused (by decide)) h)

theorem OwnRefusal.unlessCritical {r : Result} (h : OwnRefusal r) (s : State) :
    OwnRefusal (unlessCritical s r) :=
  .ite (ownRefusal_refused (by decide)) h

theorem storePixel_ownRefusal (i : Nat) (h : Byte) (l : Level) (s : State) : OwnRefusal (s.storePixel i h l) :=
  (ownRefusal_next _).unlessOutOfRange h l

theorem fillStrip_ownRefusal (h : Byte) (l : Level) (s : State) : OwnRefusal (s.fillStrip h l) :=
  (ownRefusal_next _).unlessOutOfRange h l

theorem prngNext_ownRefusal (m : Nat) (s : State) : OwnRefusal (prngNext m s) :=
  .ite (ownRefusal_refused (by decide)) (ownRefusal_next _)

theorem waitDelay_ownRefusal (u : DelayUnit) (n : Nat) (finish : State → State) (s : State) :
    OwnRefusal (s.waitDelay u n finish) := by
  obtain ⟨t, ht⟩ := State.waitDelay_completes u n finish s
  rw [ht]
  exact ownRefusal_next t

theorem hue2rgb_error {gamma : List Byte} {h : Byte} {l : Level} {q : Refusal} (e : hue2rgb gamma h l = .error q) :
    q ∈ operationRefusals := by
  unfold hue2rgb at e
  split at e
  · cases e; decide
  · split at e
    · cases e; decide
    · cases e

theorem hue2rgbl_error {h : Byte} {q : Refusal} (e : hue2rgbl h = .error q) : q ∈ operationRefusals := by
  unfold hue2rgbl at e
  split at e
  · cases e; decide
  · cases e

theorem convert_error {cvar : Bool} {gamma : List Byte} {v : Entry} {q : Refusal}
    (e : convert cvar gamma v = .error q) : q ∈ operationRefusals := by
  unfold convert at e
  split at e
  · split at e
    · cases e
    · exact hue2rgbl_error e
  · exact hue2rgb_error e

theorem coloursOf_error {s : State} {ps : List Nat} {q : Refusal} (e : coloursOf s ps = .error q) :
    q ∈ operationRefusals := by
  induction ps with
  | nil => cases e
  | cons p ps ih =>
    unfold coloursOf at e
    split at e
    · rename_i hc
      cases e
      exact convert_error hc
    · split at e
      · rename_i hcs
        cases e
        exact ih hcs
      · cases e

theorem showStrip_ownRefusal (s : State) : OwnRefusal s.showStrip := by
  unfold State.showStrip
  split
  · rename_i hq
    exact ownRefusal_refused (coloursOf_error hq)
  · exact ownRefusal_next _

theorem putColour_ownRefusal {c : Except Refusal Rgb} (hc : ∀ q, c = .error q → q ∈ operationRefusals) (s : State) :
    OwnRefusal (s.putColour c) := by
  cases c with
  | error q => exact ownRefusal_refused (hc q rfl)
  | ok v => exact ownRefusal_next _

theorem scatter_ownRefusal (k : Nat) (s : State) : OwnRefusal (scatter k s) := by
  induction k generalizing s with
  | zero => exact ownRefusal_next s
  | succ k ih =>
    exact (prngNext_ownRefusal _ _).andThen fun _ => (prngNext_ownRefusal _ _).andThen fun _ =>
      (storePixel_ownRefusal _ _ _ _).andThen ih

theorem renderGame_ownRefusal (s : State) : OwnRefusal s.renderGame :=
  (storePixel_ownRefusal _ _ _ _).andThen fun _ => (storePixel_ownRefusal _ _ _ _).andThen showStrip_ownRefusal

theorem gameReset_ownRefusal (s : State) : OwnRefusal s.gameReset :=
  (prngNext_ownRefusal _ _).andThen fun _ => renderGame_ownRefusal _

theorem gameCatch_ownRefusal (s : State) : OwnRefusal s.gameCatch :=
  (prngNext_ownRefusal _ _).andThen fun _ => renderGame_ownRefusal _

theorem pollTime_ownRefusal (s : State) : OwnRefusal s.pollTime :=
  .ite (.ite (gameReset_ownRefusal s) (renderGame_ownRefusal _)) (ownRefusal_next s)

theorem pollButton_ownRefusal (s : State) : OwnRefusal s.pollButton :=
  .ite (.ite (gameCatch_ownRefusal s) (gameReset_ownRefusal s)) (ownRefusal_next s)

/-- No operation is refused as a reserved descriptor or for its label: those refusals come before any operation runs. -/
theorem exec_ownRefusal (i : Instr) (s : State) : OwnRefusal (exec i s) := by
  cases i with
  | showFrame => exact showStrip_ownRefusal s
  | hue2rgb h l => exact putColour_ownRefusal (fun _ => hue2rgb_error) s
  | hue2rgbl h => exact putColour_ownRefusal (fun _ => hue2rgbl_error) s
  | pxset p h l => exact storePixel_ownRefusal _ h l s
  | fill h l => exact fillStrip_ownRefusal h l s
  | rnext m => exact prngNext_ownRefusal _ s
  | fx1 =>
    exact (storePixel_ownRefusal _ _ _ _).andThen fun _ => (storePixel_ownRefusal _ _ _ _).andThen showStrip_ownRefusal
  | fx2 =>
    exact (prngNext_ownRefusal 4 s.fadeStrip).andThen fun t =>
      (scatter_ownRefusal t.rv.toNat t).andThen showStrip_ownRefusal
  | fx3 =>
    exact (ownRefusal_forEach (fun _ _ => (prngNext_ownRefusal _ _).andThen fun _ => storePixel_ownRefusal _ _ _ _)
      _ s).andThen fun _ => (showStrip_ownRefusal _).andThen fun _ => ownRefusal_next _
  | fx4 =>
    exact (ownRefusal_forEach (fun _ _ => (prngNext_ownRefusal _ _).andThen fun _ => ownRefusal_next _)
      _ s).andThen showStrip_ownRefusal
  | fx5 =>
    exact (ownRefusal_forEach (fun _ _ => storePixel_ownRefusal _ _ _ _) _ s).andThen fun _ =>
      (showStrip_ownRefusal _).andThen fun _ => ownRefusal_next _
  | fx6 => exact showStrip_ownRefusal _
  | fx7 => exact (fillStrip_ownRefusal _ _ _).andThen showStrip_ownRefusal
  | atick => exact .ite (ownRefusal_next _) (ownRefusal_next _)
  | greset => exact gameReset_ownRefusal s
  | gstep => exact renderGame_ownRefusal _
  | gcatch => exact gameCatch_ownRefusal s
  | grender => exact renderGame_ownRefusal s
  | gpoll => exact (pollTime_ownRefusal _).andThen fun _ => pollButton_ownRefusal _
  | ginit => exact gameReset_ownRefusal _
  | latch => exact (waitDelay_ownRefusal _ _ _ s).unlessCritical s
  | delayus n | delayms n => exact (waitDelay_ownRefusal _ _ _ s).unlessCritical s
  | wfe | waitrel => exact (OwnRefusal.ite (ownRefusal_next _) (ownRefusal_next _)).unlessCritical s
  | armwake n => exact .ite (ownRefusal_refused (by decide)) (ownRefusal_next _)
  | irqon => exact .ite (ownRefusal_next _) (ownRefusal_next _)
  | sendbit | sendbyte | sendcolor | pxget | fade | clear | rotate | fx0 | anext | rdcnt | rdbtn | irqoff | pincfg =>
    exact ownRefusal_next _

/-! ### A client's descriptor -/

section
variable {s : State} {w : Word} {r : List Word} {i : Instr}

/-- The descriptor leaves the list once its operation has completed (log 3). -/
theorem State.retire_of_running (h : s.hold = .running) : s.retire = { s with pending := s.pending.tail } := if_pos h

/-- While its operation holds, the descriptor stays (log 3). -/
theorem State.retire_of_holding (h : s.hold ≠ .running) : s.retire = s := if_neg h

/-- A descriptor that decodes: its operation, then its retirement, then the environment (R121, 46_system.md R276). -/
theorem step_of_decode_ok (hp : s.pending = w :: r) (hd : decode w = .ok i) :
    step s = andThen (exec i s) fun t => .next t.retire.envTurn := by
  rw [step, coreStep, hp]
  simp only [issueWord, hd]
  cases exec i s with
  | next t => rfl
  | fault e => cases e
  | refused q => rfl

theorem step_of_decode_error {d : DecodeError} (hp : s.pending = w :: r) (hd : decode w = .error d) :
    step s = .refused .reservedDescriptor := by
  rw [step, coreStep, hp]
  simp only [issueWord, hd, andThen_refused]

end

/-- Settles O3: `decode_eq_ok` from the word's side; and a word that decodes is run, never refused as reserved. -/
theorem onlyReservedDescriptorsRefused : Obligations.OnlyReservedDescriptorsRefused := by
  refine ⟨fun w i => decode_eq_ok.1, fun s w r hp => ⟨fun hs i hi => ?_, fun hw => ?_⟩⟩
  · rw [step_of_decode_ok hp (decode_eq_ok.2 hi)] at hs
    obtain hx | ⟨t, -, ht⟩ := andThen_eq_refused.1 hs
    · exact absurd (exec_ownRefusal i s _ hx) (by decide)
    · cases ht
  · cases hd : decode w with
    | ok i => exact absurd (decode_eq_ok.1 hd) (hw i)
    | error d => exact step_of_decode_error hp hd

/-- Settles O4: `step_of_decode_ok` in its three outcomes; a completed operation has left the list as it was. -/
theorem stepRunsIssuedDescriptor : Obligations.StepRunsIssuedDescriptor := by
  intro s w r i hp hd
  rw [step_of_decode_ok hp hd]
  refine ⟨fun t ht hrun => ?_, fun t ht hhold => ?_, fun q hq => ?_⟩
  · rw [ht, andThen_next, State.retire_of_running hrun, (exec_ran ht).pending, hp, List.tail_cons]
  · rw [ht, andThen_next, State.retire_of_holding hhold]
  · rw [hq, andThen_refused]

end Sys2Proof.Machine
end

section
/-! PROOFS. One invocation of an animation state (43_animation.md R196, R198): it completes from every state in range,
and what it leaves in AST. -/

namespace Sys2Proof.Machine

/-! ### The operations of the animation complete -/

section
variable {s : State}

/-- A sequence completes when its parts do, the second from what the first leaves. -/
theorem andThen_completes {r : Result} {f : State → Result} (hr : ∃ t, r = .next t)
    (hf : ∀ t, r = .next t → ∃ u, f t = .next u) : ∃ u, andThen r f = .next u := by
  obtain ⟨t, ht⟩ := hr
  obtain ⟨u, hu⟩ := hf t ht
  exact ⟨u, andThen_eq_next.2 ⟨t, ht, hu⟩⟩

/-- A loop completes from the ranges when its body does and keeps them. -/
theorem forEach_completes_of_ran {k : Scope} {f : Nat → State → Result} {n : Nat} (h : RegistersInRange s)
    (hf : ∀ p u, p < n → RegistersInRange u → u.par = s.par → ∃ v, f p u = .next v ∧ Ran k u v) :
    ∃ t, forEach f (List.range n) s = .next t := by
  have hbody : ∀ p u, p < n → (RegistersInRange u ∧ u.par = s.par) →
      ∃ v, f p u = .next v ∧ RegistersInRange v ∧ v.par = s.par := by
    rintro p u hp ⟨hu, hpar⟩
    obtain ⟨v, hv, hrun⟩ := hf p u hp hu hpar
    exact ⟨v, hv, hrun.ranges hu, hrun.par.trans hpar⟩
  obtain ⟨t, ht, -⟩ := forEach_completes (P := fun _ u => RegistersInRange u ∧ u.par = s.par) n ⟨h, rfl⟩ hbody
  exact ⟨t, ht⟩

theorem prngNext_completes {m : Nat} (hm : m ≠ 0) (s : State) : ∃ t, prngNext m s = .next t := ⟨_, prngNext_eq hm s⟩

/-- A pixel at full brightness (43_animation.md R187) is stored when its hue is one. -/
theorem storePixel_full_completes (s : State) (i : Nat) {h : Byte} (hh : h.toNat ≤ 191) :
    ∃ t, s.storePixel i h fullLevel = .next t := ⟨_, s.storePixel_eq i hh (by decide)⟩

/-- What `next(192)` returns is a hue. -/
theorem rv_hue_le {t : State} (e : prngNext 192 s = .next t) : (t.rv.setWidth 8).toNat ≤ 191 := by
  obtain ⟨-, rfl⟩ := prngNext_next e
  have hlt := Nat.mod_lt (prngUpd s.prng).toNat (show 0 < 192 by decide)
  rw [BitVec.toNat_setWidth, rv_toNat]
  omega

theorem scatter_completes (k : Nat) (h : RegistersInRange s) : ∃ t, scatter k s = .next t := by
  induction k generalizing s with
  | zero => exact ⟨s, rfl⟩
  | succ k ih =>
    have hn : s.par.n ≠ 0 := Nat.pos_iff_ne_zero.1 h.legal.1.1
    refine andThen_completes (prngNext_completes hn s) fun s1 e1 => ?_
    refine andThen_completes (prngNext_completes (by decide) s1) fun s2 e2 => ?_
    refine andThen_completes (storePixel_full_completes s2 _ (rv_hue_le e2)) fun s3 e3 => ih ?_
    have hrun : Ran .shared s s3 := ((prngNext_ran e1).trans (prngNext_ran e2)).trans (storePixel_ran e3)
    exact hrun.ranges h

theorem randomPixel_completes (p : Nat) (s : State) : ∃ t, randomPixel p s = .next t :=
  andThen_completes (prngNext_completes (by decide) s) fun _ e => storePixel_full_completes _ p (rv_hue_le e)

theorem driftPixel_completes (p : Nat) (h : RegistersInRange s) : ∃ t, driftPixel p s = .next t :=
  have hd : s.par.driftMax ≠ 0 := Nat.pos_iff_ne_zero.1 h.legal.2.2.2.2.2.1
  andThen_completes (prngNext_completes hd s) fun _ _ => ⟨_, rfl⟩

/-- The spread of the rainbow stays among the hues (43_animation.md R191). -/
theorem rainbowPixel_completes {p : Nat} (hp : p < s.par.n) : ∃ t, rainbowPixel p s = .next t := by
  have hlt : p * 192 / s.par.n < 192 := by
    rw [Nat.div_lt_iff_lt_mul (by omega)]
    omega
  refine storePixel_full_completes s p ?_
  rw [ofNat8_toNat_of_lt (by omega)]
  omega

theorem RegistersInRange.showStrip_completes (h : RegistersInRange s) : ∃ t, s.showStrip = .next t :=
  State.showStrip_completes h.strip

theorem execFx1_completes (h : RegistersInRange s) : ∃ t, execFx1 s = .next t := by
  have h1 : RegistersInRange s.fadeStrip.stepComets := (fadeStrip_ran.trans stepComets_ran).ranges h
  refine andThen_completes (storePixel_full_completes _ _ h1.cometHues.1) fun s2 e2 => ?_
  have h2 := (storePixel_ran (k := .shared) e2).ranges h1
  refine andThen_completes (storePixel_full_completes _ _ h2.cometHues.2) fun s3 e3 => ?_
  exact ((storePixel_ran (k := .shared) e3).ranges h2).showStrip_completes

theorem execFx2_completes (h : RegistersInRange s) : ∃ t, execFx2 s = .next t := by
  refine andThen_completes (prngNext_completes (by decide) _) fun s1 e1 => ?_
  have h1 : RegistersInRange s1 := (fadeStrip_ran.trans (prngNext_ran (k := .shared) e1)).ranges h
  refine andThen_completes (scatter_completes _ h1) fun s2 e2 => ?_
  exact ((scatter_ran (k := .shared) _ e2).ranges h1).showStrip_completes

theorem execFx3_completes (h : RegistersInRange s) : ∃ t, execFx3 s = .next t := by
  have hbody (p : Nat) (u : State) : ∃ v, randomPixel p u = .next v ∧ Ran .shared u v := by
    obtain ⟨v, hv⟩ := randomPixel_completes p u
    exact ⟨v, hv, randomPixel_ran hv⟩
  refine andThen_completes (forEach_completes_of_ran h fun p u _ _ _ => hbody p u) fun s1 e1 => ?_
  have hrun : Ran .shared s s1 := forEach_ran (fun _ _ _ _ _ => randomPixel_ran) e1
  exact andThen_completes (hrun.ranges h).showStrip_completes fun _ _ => ⟨_, rfl⟩

/-- The loop of FX4 over all entries is within every scope. -/
theorem forEach_driftPixel_ran {k : Scope} {t : State} (e : forEach driftPixel (List.range s.par.n) s = .next t) :
    Ran k s t :=
  forEach_ran (fun _ hp _ _ hpar => driftPixel_ran (by rw [hpar]; exact List.mem_range.1 hp)) e

theorem execFx4_completes (h : RegistersInRange s) : ∃ t, execFx4 s = .next t := by
  have hloop : ∃ t, forEach driftPixel (List.range s.par.n) s = .next t := by
    refine forEach_completes_of_ran (k := .shared) h fun p u hp hu hpar => ?_
    obtain ⟨v, hv⟩ := driftPixel_completes p hu
    exact ⟨v, hv, driftPixel_ran (by rwa [hpar]) hv⟩
  exact andThen_completes hloop fun s1 e1 =>
    ((forEach_driftPixel_ran (k := .shared) e1).ranges h).showStrip_completes

theorem execFx5_completes (h : RegistersInRange s) : ∃ t, execFx5 s = .next t := by
  have hloop : ∃ t, forEach rainbowPixel (List.range s.par.n) s = .next t := by
    refine forEach_completes_of_ran (k := .shared) h fun p u hp _ hpar => ?_
    obtain ⟨v, hv⟩ := rainbowPixel_completes (s := u) (p := p) (by rwa [hpar])
    exact ⟨v, hv, storePixel_ran hv⟩
  refine andThen_completes hloop fun s1 e1 => ?_
  have hrun : Ran .shared s s1 := forEach_ran (fun _ _ _ _ _ => storePixel_ran) e1
  exact andThen_completes (hrun.ranges h).showStrip_completes fun _ _ => ⟨_, rfl⟩

theorem execFx6_completes (h : RegistersInRange s) : ∃ t, execFx6 s = .next t :=
  ((rotateStrip_ran (k := .shared)).ranges h).showStrip_completes

theorem execFx7_completes (h : RegistersInRange s) : ∃ t, execFx7 s = .next t := by
  refine andThen_completes ⟨_, State.fillStrip_eq _ (ofNat8_mod_192_le _) (by decide)⟩ fun s1 e1 => ?_
  have hgh : RegistersInRange { s with ghue := BitVec.ofNat 8 ((s.ghue.toNat + 1) % 192) } :=
    { h with ghue := ofNat8_mod_192_le _ }
  exact ((fillStrip_ran (k := .shared) e1).ranges hgh).showStrip_completes

/-- The operation of every animation state completes. -/
theorem exec_fxOf_completes (a : BitVec 3) (h : RegistersInRange s) : ∃ t, exec (fxOf a) s = .next t := by
  unfold fxOf
  split
  · exact ⟨_, rfl⟩
  · exact execFx1_completes h
  · exact execFx2_completes h
  · exact execFx3_completes h
  · exact execFx4_completes h
  · exact execFx5_completes h
  · exact execFx6_completes h
  · exact execFx7_completes h

end

/-! ### What they leave in AST (R196) -/

section
variable {s t : State}

/-- What is within the shared scope keeps AST. -/
theorem Ran.ast (h : Ran .shared s t) : t.ast = s.ast := congrArg Prod.fst (h.animation nofun)

theorem execFx0_ast (e : execFx0 s = .next t) : t.ast = 1 := by cases e; rfl

theorem execFx1_ast (e : execFx1 s = .next t) : t.ast = s.ast := by
  obtain ⟨s1, e1, e⟩ := andThen_eq_next.1 e
  obtain ⟨s2, e2, e⟩ := andThen_eq_next.1 e
  have hrun : Ran .shared s.fadeStrip.stepComets t :=
    ((storePixel_ran e1).trans (storePixel_ran e2)).trans (showStrip_ran e)
  rw [hrun.ast, State.stepComets_ast, State.fadeStrip_ast]

theorem execFx2_ast (e : execFx2 s = .next t) : t.ast = s.ast := by
  obtain ⟨s1, e1, e⟩ := andThen_eq_next.1 e
  obtain ⟨s2, e2, e⟩ := andThen_eq_next.1 e
  exact (((fadeStrip_ran.trans (prngNext_ran e1)).trans (scatter_ran _ e2)).trans (showStrip_ran e)).ast

theorem execFx3_ast (e : execFx3 s = .next t) : t.ast = 4 := by
  obtain ⟨s1, -, e⟩ := andThen_eq_next.1 e
  obtain ⟨s2, -, e⟩ := andThen_eq_next.1 e
  cases e
  rfl

theorem execFx4_ast (e : execFx4 s = .next t) : t.ast = s.ast := by
  obtain ⟨s1, e1, e⟩ := andThen_eq_next.1 e
  exact ((forEach_driftPixel_ran e1).trans (showStrip_ran e)).ast

theorem execFx5_ast (e : execFx5 s = .next t) : t.ast = 6 := by
  obtain ⟨s1, -, e⟩ := andThen_eq_next.1 e
  obtain ⟨s2, -, e⟩ := andThen_eq_next.1 e
  cases e
  rfl

theorem execFx6_ast (e : execFx6 s = .next t) : t.ast = s.ast := (rotateStrip_ran.trans (showStrip_ran e)).ast

theorem execFx7_ast (e : execFx7 s = .next t) : t.ast = s.ast := by
  obtain ⟨s1, e1, e⟩ := andThen_eq_next.1 e
  exact ((fillStrip_ran e1).trans (showStrip_ran e)).ast

/-- AST after one invocation of the state it holds: the three init states go on to the state they prepare, the others
repeat (R196). -/
def astAfter (a : BitVec 3) : BitVec 3 := if a = 0 then 1 else if a = 3 then 4 else if a = 5 then 6 else a

theorem astAfter_repeats (a : BitVec 3) : astAfter a ∈ ([1, 2, 4, 6, 7] : List (BitVec 3)) := by
  revert a
  decide

theorem animationState_cases (a : BitVec 3) :
    a = 0 ∨ a = 1 ∨ a = 2 ∨ a = 3 ∨ a = 4 ∨ a = 5 ∨ a = 6 ∨ a = 7 := by
  revert a
  decide

/-- The transition table (R196), row by row. -/
theorem exec_fxOf_ast (e : exec (fxOf s.ast) s = .next t) : t.ast = astAfter s.ast := by
  obtain h | h | h | h | h | h | h | h := animationState_cases s.ast <;> rw [h] at e ⊢
  · exact execFx0_ast e
  · exact (execFx1_ast e).trans h
  · exact (execFx2_ast e).trans h
  · exact execFx3_ast e
  · exact (execFx4_ast e).trans h
  · exact execFx5_ast e
  · exact (execFx6_ast e).trans h
  · exact (execFx7_ast e).trans h

end

/-- The operation code of animation state `a` (30_encoding.md R113). -/
theorem opField_encode_fxOf (a : BitVec 3) : (opField (encode (fxOf a))).toNat = 0x40 + a.toNat := by
  obtain ⟨hop, -⟩ := Laws.fields_of_encode (fxOf a)
  rw [hop]
  revert a
  decide

/-- Settles O37: completion of the operation of AST, its row of the table, and ANEXT, which advances what it left. -/
theorem invocationFollowsTheTable : Obligations.InvocationFollowsTheTable := by
  refine ⟨opField_encode_fxOf, fun s hs => ?_⟩
  obtain ⟨t, ht⟩ := exec_fxOf_completes s.ast hs.registers
  have hast := exec_fxOf_ast ht
  refine ⟨t, t.advanceAst, ht, hast, ?_, rfl, rfl, rfl⟩
  rw [hast]
  exact astAfter_repeats s.ast

end Sys2Proof.Machine
end

section
/-! PROOFS. What each operation puts on the wire (40_transmitter.md R130 to R136): whole frames, or time with the line
low, or the bits of the three sending operations. -/

namespace Sys2Proof.Machine

/-! ### Frames and low time -/

/-- The record after the frames of `css`, the earliest first. -/
def Line.frames (oe : Bool) (p : Config.Params) (order : Bool) (css : List (List Rgb)) (l : Line) : Line :=
  css.foldl (fun l cs => l.frame oe p (frameBits order cs)) l

theorem Line.frames_append (oe : Bool) (p : Config.Params) (order : Bool) (css dss : List (List Rgb)) (l : Line) :
    l.frames oe p order (css ++ dss) = (l.frames oe p order css).frames oe p order dss := List.foldl_append

theorem Line.frames_concat (oe : Bool) (p : Config.Params) (order : Bool) (css : List (List Rgb)) (cs : List Rgb)
    (l : Line) : l.frames oe p order (css ++ [cs]) = (l.frames oe p order css).frame oe p (frameBits order cs) :=
  l.frames_append oe p order css [cs]

/-- No time is no segment. -/
theorem extendSegs_zero (w : List Segment) : extendSegs 0 w = w := by
  cases w with
  | nil => rfl
  | cons g r => cases g <;> rfl

/-- What decides how an operation extends W: the straps, the parameters, whether the line is driven, and the record. -/
def State.wire (s : State) : BitVec 3 × Config.Params × Bool × Line := (s.cfg, s.par, s.oe, s.line)

theorem State.wire_eq_iff {s t : State} :
    t.wire = s.wire ↔ t.cfg = s.cfg ∧ t.par = s.par ∧ t.oe = s.oe ∧ t.line = s.line := by
  simp [State.wire]

/-- The wire of `s` after the frames of `css`. -/
def State.wireAfter (css : List (List Rgb)) (s : State) : BitVec 3 × Config.Params × Bool × Line :=
  (s.cfg, s.par, s.oe, s.line.frames s.oe s.par s.order css)

/-- From `s` to `t` the wire gains whole frames of N pixels, perhaps none, and nothing else. -/
def OnlyFrames (s t : State) : Prop :=
  ∃ css : List (List Rgb), (∀ cs ∈ css, cs.length = s.par.n) ∧ t.wire = s.wireAfter css

/-- From `s` to `t` the wire gains nothing but time with the line low. -/
def OnlyLow (s t : State) : Prop := ∃ d, t.line.segs = s.lowFor d

theorem OnlyFrames.of_wire {s t : State} (h : t.wire = s.wire) : OnlyFrames s t := ⟨[], nofun, h⟩

theorem State.wireAfter_of_wireAfter {s t : State} {css : List (List Rgb)} (h : t.wire = s.wireAfter css)
    (dss : List (List Rgb)) : t.wireAfter dss = s.wireAfter (css ++ dss) := by
  obtain ⟨hcfg, hpar, hoe, hline⟩ : t.cfg = s.cfg ∧ t.par = s.par ∧ t.oe = s.oe ∧
      t.line = s.line.frames s.oe s.par s.order css := by simpa [State.wire, State.wireAfter] using h
  simp only [State.wireAfter, State.order, hcfg, hpar, hoe, hline, Line.frames_append]

theorem OnlyFrames.trans {s t u : State} (h : OnlyFrames s t) (g : OnlyFrames t u) : OnlyFrames s u := by
  obtain ⟨css, hlen, hwire⟩ := h
  obtain ⟨dss, glen, gwire⟩ := g
  have hpar : t.par = s.par := congrArg (·.2.1) hwire
  refine ⟨css ++ dss, fun cs hcs => ?_, gwire.trans (State.wireAfter_of_wireAfter hwire dss)⟩
  obtain hcs | hcs := List.mem_append.1 hcs
  · exact hlen cs hcs
  · rw [glen cs hcs, hpar]

/-- A silent operation before frames. -/
theorem OnlyFrames.after {s t u : State} (g : OnlyFrames t u) (h : t.wire = s.wire) : OnlyFrames s u :=
  (OnlyFrames.of_wire h).trans g

theorem State.lowFor_zero (s : State) : s.lowFor 0 = s.line.segs := by
  rw [State.lowFor, extendSegs_zero, ite_self]

theorem OnlyLow.of_segs {s t : State} (h : t.line.segs = s.line.segs) : OnlyLow s t := ⟨0, by rw [h, s.lowFor_zero]⟩

/-- Low time after a silent change of state. -/
theorem OnlyLow.after {s t u : State} (g : OnlyLow t u) (h : t.wire = s.wire) : OnlyLow s u := by
  obtain ⟨-, -, hoe, hline⟩ := State.wire_eq_iff.1 h
  obtain ⟨d, hd⟩ := g
  exact ⟨d, by rw [hd, State.lowFor, State.lowFor, hoe, hline]⟩

theorem elapse_onlyLow (m : Nat) (s : State) : OnlyLow s (s.elapse m) := ⟨_, rfl⟩

theorem latchGap_onlyLow (s : State) : OnlyLow s s.latchGap := ⟨_, rfl⟩

/-! ### Silent changes -/

section
variable {s t : State}

theorem storePixel_wire {i : Nat} {h : Byte} {l : Level} (e : s.storePixel i h l = .next t) : t.wire = s.wire := by
  obtain ⟨-, -, rfl⟩ := State.storePixel_next e
  rfl

theorem fillStrip_wire {h : Byte} {l : Level} (e : s.fillStrip h l = .next t) : t.wire = s.wire := by
  obtain ⟨-, -, rfl⟩ := State.fillStrip_next e
  rfl

theorem prngNext_wire {m : Nat} (e : prngNext m s = .next t) : t.wire = s.wire := by
  obtain ⟨-, rfl⟩ := prngNext_next e
  rfl

theorem putColour_wire {c : Except Refusal Rgb} (e : s.putColour c = .next t) : t.wire = s.wire := by
  rw [(State.putColour_next e).2]
  rfl

theorem sampleButton_wire (s : State) : s.sampleButton.wire = s.wire := by simp [State.wire]

theorem EnvMoved.wire (h : EnvMoved s t) : t.wire = s.wire := by
  have hoe : t.oe = s.oe := h.stat_bit (by decide)
  rw [State.wire_eq_iff, hoe, h.eq]
  exact ⟨rfl, rfl, rfl, rfl⟩

theorem scatter_wire (k : Nat) (e : scatter k s = .next t) : t.wire = s.wire := by
  induction k generalizing s with
  | zero => cases e; rfl
  | succ k ih =>
    obtain ⟨s1, e1, e⟩ := andThen_eq_next.1 e
    obtain ⟨s2, e2, e⟩ := andThen_eq_next.1 e
    obtain ⟨s3, e3, e⟩ := andThen_eq_next.1 e
    exact (((ih e).trans (storePixel_wire e3)).trans (prngNext_wire e2)).trans (prngNext_wire e1)

/-- A loop is silent when its body is. -/
theorem forEach_wire {f : Nat → State → Result} (hf : ∀ p u v, f p u = .next v → v.wire = u.wire) (ps : List Nat)
    (e : forEach f ps s = .next t) : t.wire = s.wire := by
  induction ps generalizing s with
  | nil => cases e; rfl
  | cons p ps ih =>
    obtain ⟨u, hu, e⟩ := andThen_eq_next.1 e
    exact (ih e).trans (hf p s u hu)

theorem randomPixel_wire {p : Nat} (e : randomPixel p s = .next t) : t.wire = s.wire := by
  obtain ⟨u, e1, e2⟩ := andThen_eq_next.1 e
  exact (storePixel_wire e2).trans (prngNext_wire e1)

theorem driftPixel_wire {p : Nat} (e : driftPixel p s = .next t) : t.wire = s.wire := by
  obtain ⟨u, e1, e2⟩ := andThen_eq_next.1 e
  cases e2
  have hprng : u.wire = s.wire := prngNext_wire e1
  exact hprng

end

/-! ### The operations that send frames -/

/-- The frame of SHOW on the wire. -/
theorem State.sendFrame_line (cs : List Rgb) (s : State) :
    (s.sendFrame cs).line = s.line.frame s.oe s.par (frameBits s.order cs) := by
  by_cases h : cs = []
  · subst h
    simp [State.sendFrame, State.leaveCritical, Line.frame, frameBits]
  · rw [State.sendFrame_eq cs h]

theorem State.sendFrame_oe (cs : List Rgb) (s : State) : (s.sendFrame cs).oe = s.oe := by
  by_cases h : cs = []
  · subst h
    simp [State.sendFrame]
  · rw [State.sendFrame_eq cs h]
    simp [State.oe]

theorem State.sendFrame_wire (cs : List Rgb) (s : State) : (s.sendFrame cs).wire = s.wireAfter [cs] := by
  rw [State.wire, State.sendFrame_line, State.sendFrame_oe, State.sendFrame_frame]
  rfl

section
variable {s t : State}

theorem showStrip_onlyFrames (e : s.showStrip = .next t) : OnlyFrames s t := by
  obtain ⟨cs, hcs, rfl⟩ := State.showStrip_next e
  refine ⟨[cs], fun ds hds => ?_, s.sendFrame_wire cs⟩
  rw [List.mem_singleton.1 hds]
  exact State.frameColours_length hcs

theorem execFx1_onlyFrames (e : execFx1 s = .next t) : OnlyFrames s t := by
  obtain ⟨s1, e1, e⟩ := andThen_eq_next.1 e
  obtain ⟨s2, e2, e⟩ := andThen_eq_next.1 e
  have hcomets : s.fadeStrip.stepComets.wire = s.wire := rfl
  exact (showStrip_onlyFrames e).after (((storePixel_wire e2).trans (storePixel_wire e1)).trans hcomets)

theorem execFx2_onlyFrames (e : execFx2 s = .next t) : OnlyFrames s t := by
  obtain ⟨s1, e1, e⟩ := andThen_eq_next.1 e
  obtain ⟨s2, e2, e⟩ := andThen_eq_next.1 e
  have hfade : s.fadeStrip.wire = s.wire := rfl
  exact (showStrip_onlyFrames e).after (((scatter_wire _ e2).trans (prngNext_wire e1)).trans hfade)

theorem execFx3_onlyFrames (e : execFx3 s = .next t) : OnlyFrames s t := by
  obtain ⟨s1, e1, e⟩ := andThen_eq_next.1 e
  obtain ⟨s2, e2, e⟩ := andThen_eq_next.1 e
  cases e
  have hloop := forEach_wire (fun _ _ _ => randomPixel_wire) _ e1
  exact ((showStrip_onlyFrames e2).after hloop).trans (.of_wire rfl)

theorem execFx4_onlyFrames (e : execFx4 s = .next t) : OnlyFrames s t := by
  obtain ⟨s1, e1, e⟩ := andThen_eq_next.1 e
  exact (showStrip_onlyFrames e).after (forEach_wire (fun _ _ _ => driftPixel_wire) _ e1)

theorem execFx5_onlyFrames (e : execFx5 s = .next t) : OnlyFrames s t := by
  obtain ⟨s1, e1, e⟩ := andThen_eq_next.1 e
  obtain ⟨s2, e2, e⟩ := andThen_eq_next.1 e
  cases e
  have hloop := forEach_wire (fun _ _ _ => storePixel_wire) _ e1
  exact ((showStrip_onlyFrames e2).after hloop).trans (.of_wire rfl)

theorem execFx6_onlyFrames (e : execFx6 s = .next t) : OnlyFrames s t :=
  have hrotate : s.rotateStrip.wire = s.wire := rfl
  (showStrip_onlyFrames e).after hrotate

theorem execFx7_onlyFrames (e : execFx7 s = .next t) : OnlyFrames s t := by
  obtain ⟨s1, e1, e⟩ := andThen_eq_next.1 e
  have hfill := fillStrip_wire e1
  exact (showStrip_onlyFrames e).after hfill

theorem renderGame_onlyFrames (e : s.renderGame = .next t) : OnlyFrames s t := by
  obtain ⟨s1, e1, e⟩ := andThen_eq_next.1 e
  obtain ⟨s2, e2, e⟩ := andThen_eq_next.1 e
  have hclear : s.clearStrip.wire = s.wire := rfl
  exact (showStrip_onlyFrames e).after (((storePixel_wire e2).trans (storePixel_wire e1)).trans hclear)

theorem gameReset_onlyFrames (e : s.gameReset = .next t) : OnlyFrames s t := by
  obtain ⟨s1, e1, e⟩ := andThen_eq_next.1 e
  have hprng := prngNext_wire e1
  exact (renderGame_onlyFrames e).after hprng

theorem gameCatch_onlyFrames (e : s.gameCatch = .next t) : OnlyFrames s t := by
  obtain ⟨s1, e1, e⟩ := andThen_eq_next.1 e
  have hprng := prngNext_wire e1
  exact (renderGame_onlyFrames e).after hprng

theorem gameStep_onlyFrames (e : s.gameStep = .next t) : OnlyFrames s t := (renderGame_onlyFrames e).after rfl

theorem pollTime_onlyFrames (e : s.pollTime = .next t) : OnlyFrames s t := by
  unfold State.pollTime at e
  split at e
  · split at e
    · exact gameReset_onlyFrames e
    · exact gameStep_onlyFrames e
  · cases e
    exact .of_wire rfl

theorem pollButton_onlyFrames (e : s.pollButton = .next t) : OnlyFrames s t := by
  unfold State.pollButton at e
  split at e
  · split at e
    · exact gameCatch_onlyFrames e
    · exact gameReset_onlyFrames e
  · cases e
    exact .of_wire rfl

/-- A poll may send two frames, one for the time and one for the button (44_game.md R222). -/
theorem execGpoll_onlyFrames (e : execGpoll s = .next t) : OnlyFrames s t := by
  obtain ⟨s1, e1, e⟩ := andThen_eq_next.1 e
  have hcounter : s.sampleCounter.wire = s.wire := rfl
  have hsample : s1.envInside.sampleButton.wire = s1.wire :=
    (sampleButton_wire _).trans s1.envInside_moved.wire
  exact ((pollTime_onlyFrames e1).after hcounter).trans ((pollButton_onlyFrames e).after hsample)

theorem execGinit_onlyFrames (e : execGinit s = .next t) : OnlyFrames s t := (gameReset_onlyFrames e).after rfl

theorem execAtick_wire (e : execAtick s = .next t) : t.wire = s.wire := by
  unfold execAtick at e
  split at e <;> cases e <;> rfl

theorem execArmwake_wire {n : BitVec 24} (e : execArmwake n s = .next t) : t.wire = s.wire := by
  unfold execArmwake at e
  split at e
  · cases e
  · cases e
    simp [State.wire, State.oe]

/-! ### The operations that wait -/

/-- A delay adds to the wire what completes it, once it is over. -/
theorem waitDelay_onlyLow {u : DelayUnit} {n : Nat} {finish : State → State} (hf : ∀ v, OnlyLow v (finish v))
    (e : s.waitDelay u n finish = .next t) : OnlyLow s t := by
  obtain ⟨-, rfl⟩ | ⟨-, -, -, rfl⟩ | ⟨-, -, -, rfl⟩ | ⟨-, -, rfl⟩ := State.waitDelay_next e
  · exact (hf _).after rfl
  · exact (hf _).after rfl
  · exact .of_segs rfl
  · exact .of_segs rfl

theorem execWfe_onlyLow (e : execWfe s = .next t) : OnlyLow s t := by
  obtain ⟨-, e⟩ := unlessCritical_next e
  split at e
  · cases e
    exact (elapse_onlyLow 0 _).after (by simp [State.wire])
  · cases e
    exact .of_segs rfl

theorem execIrqon_onlyLow (e : execIrqon s = .next t) : OnlyLow s t := by
  unfold execIrqon at e
  split at e
  · cases e
    exact (elapse_onlyLow 0 _).after (by simp [State.wire])
  · cases e
    exact .of_segs rfl

theorem execWaitrel_onlyLow (e : execWaitrel s = .next t) : OnlyLow s t := by
  obtain ⟨-, e⟩ := unlessCritical_next e
  dsimp only at e
  split at e
  · cases e
    exact .of_segs rfl
  · cases e
    have hrelease : (s.sampleButton.setHold .running).wire = s.wire := sampleButton_wire s
    exact (elapse_onlyLow 0 _).after hrelease

/-! ### Every operation -/

/-- The operations that put bits on the wire other than through SHOW (40_transmitter.md R132 to R134). -/
def sendsBits : Instr → Bool
  | .sendbit _ | .sendbyte _ | .sendcolor _ _ _ => true
  | _ => false

/-- Every operation but the three senders adds whole frames, or low time, or nothing (40_transmitter.md R139). -/
theorem exec_onlyFrames_or_onlyLow {i : Instr} (hi : sendsBits i = false) (e : exec i s = .next t) :
    OnlyFrames s t ∨ OnlyLow s t := by
  cases i with
  | sendbit | sendbyte | sendcolor => cases hi
  | showFrame => exact .inl (showStrip_onlyFrames e)
  | fx1 => exact .inl (execFx1_onlyFrames e)
  | fx2 => exact .inl (execFx2_onlyFrames e)
  | fx3 => exact .inl (execFx3_onlyFrames e)
  | fx4 => exact .inl (execFx4_onlyFrames e)
  | fx5 => exact .inl (execFx5_onlyFrames e)
  | fx6 => exact .inl (execFx6_onlyFrames e)
  | fx7 => exact .inl (execFx7_onlyFrames e)
  | greset => exact .inl (gameReset_onlyFrames e)
  | gstep => exact .inl (gameStep_onlyFrames e)
  | gcatch => exact .inl (gameCatch_onlyFrames e)
  | grender => exact .inl (renderGame_onlyFrames e)
  | gpoll => exact .inl (execGpoll_onlyFrames e)
  | ginit => exact .inl (execGinit_onlyFrames e)
  | latch => exact .inr (waitDelay_onlyLow latchGap_onlyLow (unlessCritical_next e).2)
  | delayus n | delayms n => exact .inr (waitDelay_onlyLow (elapse_onlyLow _) (unlessCritical_next e).2)
  | wfe => exact .inr (execWfe_onlyLow e)
  | irqon => exact .inr (execIrqon_onlyLow e)
  | waitrel => exact .inr (execWaitrel_onlyLow e)
  | hue2rgb h l | hue2rgbl h => exact .inl (.of_wire (putColour_wire e))
  | pxset p h l => exact .inl (.of_wire (storePixel_wire e))
  | fill h l => exact .inl (.of_wire (fillStrip_wire e))
  | rnext m => exact .inl (.of_wire (prngNext_wire e))
  | atick => exact .inl (.of_wire (execAtick_wire e))
  | armwake n => exact .inl (.of_wire (execArmwake_wire e))
  | pxget | fade | clear | rotate | fx0 | anext | rdcnt | rdbtn | irqoff | pincfg =>
    cases e
    exact .inr (.of_segs rfl)

end

/-! ### One move of CORE -/

/-- CORE's move from `s` to `t` is at most one operation, with the property `ok`, and then writes of the control state
only, none of which touches the wire. -/
def RunsOne (ok : Instr → Prop) (s t : State) : Prop :=
  ∃ u, (u = s ∨ ∃ i, ok i ∧ exec i s = .next u) ∧ t.wire = u.wire

section
variable {s t u : State} {i : Instr} {l : Label}

@[simp] theorem State.goto_wire (l : Label) (s : State) : (s.goto l).wire = s.wire := by simp [State.wire]
@[simp] theorem State.goPart_wire (k : LabelPart) (s : State) : (s.goPart k).wire = s.wire := rfl
@[simp] theorem State.takeMode_wire (s : State) : s.takeMode.wire = s.wire := by simp [State.wire]
@[simp] theorem State.retire_wire (s : State) : s.retire.wire = s.wire := by simp [State.wire]

theorem RunsOne.of_exec {ok : Instr → Prop} (hi : ok i) (e : exec i s = .next u) (h : t.wire = u.wire) :
    RunsOne ok s t := ⟨u, .inr ⟨i, hi, e⟩, h⟩

theorem RunsOne.mono {ok ok' : Instr → Prop} (hok : ∀ i, ok i → ok' i) (h : RunsOne ok s t) : RunsOne ok' s t := by
  obtain ⟨u, hu | ⟨i, hi, e⟩, hw⟩ := h
  · exact ⟨u, .inl hu, hw⟩
  · exact .of_exec (hok i hi) e hw

theorem issueThen_runsOne (hi : sendsBits i = false) (e : issueThen i l s = .next t) :
    RunsOne (sendsBits · = false) s t := by
  obtain ⟨u, hu, rfl⟩ := issueThen_next e
  exact .of_exec hi hu (by simp)

theorem seqBoot_runsOne (e : seqBoot s = .next t) : RunsOne (sendsBits · = false) s t := by
  unfold seqBoot at e
  split at e
  · obtain ⟨u, hu, e⟩ := andThen_eq_next.1 e
    cases e
    refine .of_exec rfl hu ?_
    split <;> simp
  · obtain ⟨u, hu, e⟩ := andThen_eq_next.1 e
    cases e
    exact .of_exec rfl hu (by simp)
  · exact issueThen_runsOne rfl e

theorem seqTick_runsOne (e : seqTick s = .next t) : RunsOne (sendsBits · = false) s t := by
  unfold seqTick at e
  split at e
  · cases e
    exact ⟨s, .inl rfl, by simp⟩
  · exact issueThen_runsOne rfl e

theorem seqBtn_runsOne (e : seqBtn s = .next t) : RunsOne (sendsBits · = false) s t := by
  unfold seqBtn at e
  split at e
  · split at e
    · obtain ⟨u, hu, e⟩ := andThen_eq_next.1 e
      cases e
      refine .of_exec rfl hu ?_
      split <;> simp
    · cases e
      exact ⟨s, .inl rfl, by simp⟩
  · exact issueThen_runsOne rfl e
  · exact issueThen_runsOne rfl e

theorem sendsBits_fxOf (a : BitVec 3) : sendsBits (fxOf a) = false := by
  unfold fxOf
  split <;> rfl

/-- The sequencer issues none of the three senders (40_transmitter.md R139). -/
theorem seqLabel_runsOne (e : seqLabel l s = .next t) : RunsOne (sendsBits · = false) s t := by
  cases l with
  | boot => exact seqBoot_runsOne e
  | aExec => exact issueThen_runsOne (sendsBits_fxOf s.ast) e
  | aTick => exact seqTick_runsOne e
  | aBtn => exact seqBtn_runsOne e
  | gPoll =>
    obtain ⟨u, hu, e⟩ := andThen_eq_next.1 e
    cases e
    exact .of_exec rfl hu (by simp)
  | aSleep | aHold | aSettle | gInit | gHold | gSettle => exact issueThen_runsOne rfl e

theorem coreStep_runsOne (e : coreStep s = .next t) : RunsOne (fun _ => True) s t := by
  cases hp : s.pending with
  | nil =>
    obtain ⟨l, -, e⟩ := coreStep_next_of_label hp e
    exact (seqLabel_runsOne e).mono fun _ _ => trivial
  | cons w r =>
    rw [coreStep, hp] at e
    simp only [issueWord] at e
    split at e
    · cases e
    · obtain ⟨u, hu, e⟩ := andThen_eq_next.1 e
      cases e
      exact .of_exec trivial hu (by simp)

/-- The first operation of BOOT is PINCFG: the line is driven from then on, and W has gained nothing (46_system.md
R256, R267). -/
theorem coreStep_pincfg (hp : s.pending = []) (hq : s.seq = 0) (hpart : s.part = .first) (e : coreStep s = .next t) :
    t.oe = true ∧ t.cfg = s.cfg ∧ t.par = s.par ∧ t.line = s.line := by
  rw [coreStep_of_label hp (l := .boot) (by rw [hq]; rfl), seqLabel, seqBoot, hpart] at e
  obtain ⟨u, hu, e⟩ := andThen_eq_next.1 e
  cases hu
  cases e
  split <;> simp

/-- The environment moves, or a reset puts the machine back to its start. -/
theorem State.envTurn_wire_or_powerOn (s : State) :
    (s.envTurn.wire = s.wire ∧ s.envTurn.seq = s.seq ∧ s.envTurn.part = s.part) ∨
      ∃ u : State, s.envTurn = u.powerOn := by
  obtain h | ⟨u, -, hu⟩ := s.envTurn_cases
  · exact .inl ⟨h.wire, by rw [h.eq], by rw [h.eq]⟩
  · exact .inr ⟨u, hu⟩

end

end Sys2Proof.Machine
end

section
/-! PROOFS. The ProtocolTransmitter (40_transmitter.md R132 to R136): the three sending operations, LATCH and SHOW. -/

namespace Sys2Proof.Machine

/-- The gaps of legal parameters (00_scope.md R14). -/
theorem legal_gaps {p : Config.Params} (hp : p.Legal) : 0 < p.tWindowNs ∧ p.tWindowNs ≤ p.tLatchNs := by
  obtain ⟨-, -, -, -, hgaps, -⟩ := hp
  exact hgaps

/-! ### The pulses of the sending operations -/

/-- A record that gains the pulses `ps` if the line is driven, and the symbols of `bs`. -/
structure Line.Gains (oe : Bool) (bs : List Bool) (ps : List (Nat × Nat)) (l l' : Line) : Prop where
  segs : l'.segs = ifDriven oe ((pulseSegs ps).reverse ++ l.segs) l.segs
  syms : l'.syms = (bs.map bitSymbol).reverse ++ l.syms

/-- One pulse more, after pulses with tight gaps. -/
theorem PulsesFor.concat {w : Nat} {tight b : Bool} {bs : List Bool} {ps : List (Nat × Nat)} {dh dl : Nat}
    (h : PulsesFor w true bs ps) (hh : highLegal b dh) (hl : 0 < dl) (ht : tight = true → dl < Config.ns w) :
    PulsesFor w tight (bs ++ [b]) (ps ++ [(dh, dl)]) := by
  induction bs generalizing ps with
  | nil =>
    subst h
    exact ⟨hh, hl, fun h => ht (h.resolve_left (by simp)), rfl⟩
  | cons c bs ih =>
    cases ps with
    | nil => exact h.elim
    | cons q ps =>
      obtain ⟨hhigh, hpos, htight, hrest⟩ := h
      exact ⟨hhigh, hpos, fun _ => htight (.inr rfl), ih hrest⟩

section
variable {w : Nat} (hw : 0 < w) (oe : Bool) (l : Line)

include hw

/-- Pulses with tight gaps. -/
theorem Line.sendBits_gains (bs : List Bool) :
    ∃ ps, PulsesFor w true bs ps ∧ l.Gains oe bs ps (l.sendBits oe w bs) := by
  obtain ⟨ps, hps, hseg⟩ := l.sendBits_segs hw bs
  refine ⟨ps, hps, ?_, Line.sendBits_syms oe w bs l⟩
  cases oe with
  | true => exact hseg
  | false => exact Line.sendBits_segs_undriven w bs l

/-- Pulses with tight gaps, the last of them with time after it. -/
theorem Line.sendBits_elapse_gains {bs : List Bool} (hbs : bs ≠ []) :
    ∃ ps, PulsesFor w false bs ps ∧ l.Gains oe bs ps ((l.sendBits oe w bs).elapse oe 0) := by
  obtain ⟨ps, hps, hseg⟩ := l.sendBits_segs hw bs
  have hsyms : ((l.sendBits oe w bs).elapse oe 0).syms = (bs.map bitSymbol).reverse ++ l.syms :=
    Line.sendBits_syms oe w bs l
  obtain rfl | ⟨init, ⟨dh, dl⟩, rfl⟩ := List.eq_nil_or_concat ps
  · cases bs with
    | nil => exact absurd rfl hbs
    | cons => exact hps.elim
  · rw [List.concat_eq_append] at hps hseg
    refine ⟨init ++ [(dh, dl + (Config.ns 0 + Config.freeDuration (l.sendBits true w bs).draws))],
      hps.lengthen (by omega), ?_, hsyms⟩
    cases oe with
    | true => simp [Line.elapse, ifDriven, hseg, pulseSegs, extendSegs]
    | false => exact Line.sendBits_segs_undriven w bs l

/-- Pulses with tight gaps, then one whose gap is free, with time after it. -/
theorem Line.sendBits_pulse_elapse_gains (bs : List Bool) (b : Bool) :
    ∃ ps, PulsesFor w false (bs ++ [b]) ps ∧
      l.Gains oe (bs ++ [b]) ps (((l.sendBits oe w bs).pulse oe w b false).elapse oe 0) := by
  obtain ⟨ps, hps, hseg⟩ := l.sendBits_segs hw bs
  have hpos := lowTime_pos false w (Config.freeDuration ((l.sendBits true w bs).draws + 1))
  refine ⟨ps ++ [(highTime b (Config.freeDuration (l.sendBits true w bs).draws),
      lowTime false w (Config.freeDuration ((l.sendBits true w bs).draws + 1)) +
        (Config.ns 0 + Config.freeDuration ((l.sendBits true w bs).draws + 2)))],
    hps.concat (highTime_legal _ _) (by omega) nofun, ?_, by simp [Line.sendBits_syms]⟩
  cases oe with
  | true => simp [Line.pulse, Line.elapse, ifDriven, hseg, pulseSegs, extendSegs]
  | false => exact Line.sendBits_segs_undriven w bs l

theorem Line.oneBit_gains (im b : Bool) :
    ∃ ps, PulsesFor w im [b] ps ∧ l.Gains oe [b] ps (l.oneBit oe w im b) := by
  cases im with
  | true => exact l.sendBits_gains hw oe [b]
  | false => exact l.sendBits_pulse_elapse_gains hw oe [] b

theorem Line.oneByte_gains (im : Bool) (v : Byte) :
    ∃ ps, PulsesFor w im (byteBits v) ps ∧ l.Gains oe (byteBits v) ps (l.oneByte oe w im v) := by
  cases im with
  | true => exact l.sendBits_gains hw oe (byteBits v)
  | false => exact l.sendBits_pulse_elapse_gains hw oe ((byteBits v).take 7) (v.getLsbD 0)

theorem Line.oneColour_gains (im order : Bool) (c : Rgb) :
    ∃ ps, PulsesFor w im (colourBits order c) ps ∧
      l.Gains oe (colourBits order c) ps (l.oneColour oe w im order c) := by
  cases im with
  | true => exact l.sendBits_gains hw oe (colourBits order c)
  | false =>
    refine l.sendBits_elapse_gains hw oe fun h => ?_
    have hlen := colourBits_length order c
    simp [h] at hlen

end

/-- From `s` to `t` exactly the bits `bs` were sent, as pulses of legal times; of the rest only STAT.DOUT may differ, and
it is 0. -/
def BitsSent (bs : List Bool) (s t : State) : Prop :=
  ∃ ps, PulsesFor s.par.tWindowNs s.im bs ps ∧
    t.wireHistory = s.wireHistory ++ s.driven (pulseSegs ps) ∧
    t.symbolHistory = s.symbolHistory ++ bs.map bitSymbol ∧
    t.dout = false ∧ statFrame [6] s t ∧ t = { s with stat := t.stat, line := t.line }

theorem BitsSent.of_gains {bs : List Bool} {s t : State} {l : Line}
    (h : ∃ ps, PulsesFor s.par.tWindowNs s.im bs ps ∧ s.line.Gains s.oe bs ps l)
    (eq : t = { s with stat := dropDout s.stat, line := l }) : BitsSent bs s t := by
  obtain ⟨ps, hps, hsegs, hsyms⟩ := h
  subst eq
  refine ⟨ps, hps, ?_, ?_, ?_, fun j hj => ?_, rfl⟩
  · cases hoe : s.oe <;> simp [State.wireHistory, State.driven, ifDriven, hoe, hsegs]
  · simp [State.symbolHistory, hsyms]
  · simp [State.dout, dropDout]
  · have hne : j ≠ 6 := by simpa using hj
    rw [dropDout, getLsbD_setBit8 _ _ (by decide), if_neg hne]

section
variable {s : State} (hw : 0 < s.par.tWindowNs)

include hw

theorem sendBit_bitsSent (b : Bool) : BitsSent [b] s (s.sendBit b) :=
  .of_gains (s.line.oneBit_gains hw s.oe s.im b) (s.sendBit_eq b)

theorem sendByte_bitsSent (v : Byte) : BitsSent (byteBits v) s (s.sendByte v) :=
  .of_gains (s.line.oneByte_gains hw s.oe s.im v) (s.sendByte_eq v)

theorem sendColor_bitsSent (c : Rgb) : BitsSent (colourBits s.order c) s (s.sendColor c) :=
  .of_gains (s.line.oneColour_gains hw s.oe s.im s.order c) (s.sendColor_eq c)

end

/-- The bits of a triplet, by the order of its channels on the wire (20_memory.md R76). -/
theorem colourBits_mkRgb (order : Bool) (r g b : Byte) :
    colourBits order (mkRgb r g b) =
      if order then byteBits r ++ byteBits g ++ byteBits b else byteBits g ++ byteBits r ++ byteBits b := by
  cases order <;> simp [colourBits, wireBytes]

/-- Settles O7: each sending operation ends in one update of the record, whose segments are the pulses of its bits. -/
theorem sendsPutTheirBitsOnTheWire : Obligations.SendsPutTheirBitsOnTheWire := by
  intro x v r g b s hw byte q hq
  have hbyte (v : Byte) : byte v = byteBits v := rfl
  simp only [List.mem_cons, List.not_mem_nil, or_false, hbyte, ← colourBits_mkRgb] at hq
  obtain rfl | rfl | rfl := hq
  · obtain ⟨ps, h⟩ := sendBit_bitsSent hw (x.getLsbD 0)
    exact ⟨_, ps, rfl, h⟩
  · obtain ⟨ps, h⟩ := sendByte_bitsSent hw v
    exact ⟨_, ps, rfl, h⟩
  · obtain ⟨ps, h⟩ := sendColor_bitsSent hw (mkRgb r g b)
    exact ⟨_, ps, rfl, h⟩

/-! ### LATCH -/

/-- Settles O8: the wait of the delay primitive, whose count is not 0, ended by the gap. -/
theorem latchWaitsForTheGap : Obligations.LatchWaitsForTheGap := by
  intro s hp him n
  obtain ⟨hwindow, hle⟩ := legal_gaps hp
  have hn : n ≠ 0 := by omega
  have hlatch : exec .latch s = s.waitDelay .us n State.latchGap := unlessCritical_of_not_im him _
  rw [hlatch, State.waitDelay, if_neg hn]
  refine ⟨fun hh => if_neg hh, fun hh hd => ?_, fun hh hd => ?_⟩
  · simp only [if_pos hh, hd, Bool.false_eq_true, if_false]
  · simp only [if_pos hh, hd, if_true]
    refine ⟨_, Config.ns s.par.tLatchNs + Config.freeDuration s.line.draws, rfl, Nat.le_add_right _ _, rfl, ?_,
      rfl, rfl⟩
    simp [State.symbolHistory]

/-! ### SHOW -/

/-- Settles O9: the frame that SHOW sends, with what it leaves of the state. -/
theorem showSendsOneFrame : Obligations.ShowSendsOneFrame := by
  intro s hp hstrip
  obtain ⟨t, ht, hframe, heq⟩ := State.showStrip_frame hp hstrip
  have hkept : t.strip = s.strip := by rw [heq]
  obtain ⟨cs, ps, ⟨hlen, hps, q, hq, hgap⟩, hconv, hwire, -⟩ := id hframe
  rw [hkept] at hconv
  exact ⟨t, cs, ps, q, ht, hframe, hlen, hconv, hps, hq, hgap, hwire, heq⟩

/-- Each triplet of a frame is the conversion of its entry. -/
theorem State.frameColours_get {s : State} {cs : List Rgb} (h : s.frameColours = .ok cs) {p : Nat} (hp : p < s.par.n) :
    convert s.cvar s.par.gamma (s.strip.read p) = .ok (cs.getD p 0) := by
  have hlt : p < (List.range s.par.n).length := by rwa [List.length_range]
  have hget := coloursOf_get (s := s) (ps := List.range s.par.n) h p hlt
  rwa [List.getElem_range] at hget

/-- What is displayed after a frame on a quiet driven line (40_transmitter.md R139). -/
theorem sendFrame_shown {s : State} (hp : s.par.Legal) (hoe : s.oe = true) (hclean : ChainClean s) {cs : List Rgb}
    (hlen : cs.length = s.par.n) : (s.sendFrame cs).shown = .colours cs := by
  have hpar : (s.sendFrame cs).par = s.par := by rw [State.sendFrame_frame]
  have horder : (s.sendFrame cs).order = s.order := by rw [State.sendFrame_frame]; rfl
  rw [State.shown, hpar, horder, State.sendFrame_line, hoe, chainOf_frame hp _ hlen _ hclean.1 hclean.2]

/-- A frame that is not driven displays nothing (93_implementation_defined.md U12). -/
theorem sendFrame_shown_undriven {s : State} (hoe : s.oe = false) (cs : List Rgb) :
    (s.sendFrame cs).line.segs = s.line.segs ∧ (s.sendFrame cs).shown = s.shown := by
  have hsegs : (s.sendFrame cs).line.segs = s.line.segs := by
    rw [State.sendFrame_line, hoe, Line.frame_segs_undriven]
  have hpar : (s.sendFrame cs).par = s.par := by rw [State.sendFrame_frame]
  have horder : (s.sendFrame cs).order = s.order := by rw [State.sendFrame_frame]; rfl
  exact ⟨hsegs, by rw [State.shown, State.shown, hpar, horder, hsegs]⟩

/-- A line that is quiet since reset, or for the latch gap, has nothing half received (40_transmitter.md R138). -/
theorem chainClean_of_quiet {s : State}
    (h : s.line.segs = [] ∨ ∃ e r, s.line.segs = .low e :: r ∧ Config.ns s.par.tLatchNs ≤ e) : ChainClean s := by
  obtain h | ⟨e, r, h, he⟩ := h
  · simp [ChainClean, h, chainOf]
  · simp [ChainClean, h, chainOf, chainStep, he]

/-- Settles O10: the frame of SHOW, received by a chain with nothing in it, or by none. -/
theorem showDisplaysTheStrip : Obligations.ShowDisplaysTheStrip := by
  intro s hp hstrip hquiet
  obtain ⟨t, ht⟩ := State.showStrip_completes hstrip
  obtain ⟨cs, hcs, rfl⟩ := State.showStrip_next ht
  have hlen := State.frameColours_length hcs
  refine ⟨fun hoe => ?_, fun hoe => ?_⟩
  · refine ⟨_, cs, ht, sendFrame_shown hp hoe (chainClean_of_quiet hquiet) hlen, hlen, fun p hlt => ?_⟩
    exact State.frameColours_get hcs hlt
  · obtain ⟨hsegs, hshown⟩ := sendFrame_shown_undriven hoe cs
    exact ⟨_, ht, by rw [State.wireHistory, State.wireHistory, hsegs], hshown⟩

end Sys2Proof.Machine
end

section
/-! PROOFS. The observer of the wire (40_transmitter.md R138): what the LED chain makes of pulses that a latch ends. -/

namespace Sys2Proof.Machine

/-- The bit of a high time, if it is one (40_transmitter.md R138). -/
def bitOfHigh (d : Nat) : Option Bool :=
  if d < Config.ns 500 then some false else if Config.ns 625 ≤ d then some true else none

/-- A high time that is no bit. -/
def BadHigh (d : Nat) : Prop := Config.ns 500 ≤ d ∧ d < Config.ns 625

theorem bitOfHigh_eq_none {d : Nat} : bitOfHigh d = none ↔ BadHigh d := by
  unfold bitOfHigh BadHigh
  split
  · simp; omega
  · split
    · simp; omega
    · simp; omega

section
variable {p : Config.Params} {order : Bool}

/-- A high segment is one bit received, or something bad. -/
theorem chainStep_high (c : Chain) (d : Nat) :
    chainStep p order c (.high d) = ⟨(bitOfHigh d).toList ++ c.bits, c.bad || (bitOfHigh d).isNone, c.shown⟩ := by
  simp only [chainStep, bitOfHigh, Config.t0hLimitNs, Config.t1hMinNs]
  by_cases h0 : d < Config.ns 500
  · simp [h0]
  · by_cases h1 : Config.ns 625 ≤ d <;> simp [h0, h1]

theorem chainStep_low (c : Chain) (d : Nat) :
    chainStep p order c (.low d) =
      if Config.ns p.tLatchNs ≤ d then ⟨[], false, latchShown p.n order c⟩
      else if d < Config.ns p.tWindowNs then c
      else if c.bits = [] ∧ c.bad = false then c
      else ⟨c.bits, true, c.shown⟩ := rfl

/-- A low segment after a pulse that is no latch leaves the bits, and is bad from the window on. -/
theorem chainStep_low_of_pulse {c : Chain} {d : Nat} (hc : ¬ (c.bits = [] ∧ c.bad = false))
    (hd : d < Config.ns p.tLatchNs) :
    chainStep p order c (.low d) = ⟨c.bits, c.bad || decide (Config.ns p.tWindowNs ≤ d), c.shown⟩ := by
  rw [chainStep_low, if_neg (Nat.not_le.2 hd)]
  by_cases hw : d < Config.ns p.tWindowNs
  · simp [hw, Nat.not_le.2 hw]
  · simp [hw, hc, Nat.not_lt.1 hw]

/-- After a high segment the chain has a bit or something bad. -/
theorem chainStep_high_not_clean (c : Chain) (d : Nat) :
    ¬ ((chainStep p order c (.high d)).bits = [] ∧ (chainStep p order c (.high d)).bad = false) := by
  rw [chainStep_high]
  cases bitOfHigh d <;> simp

/-- Something bad among the pulses `gs`, none of whose gaps is a latch. -/
def BadPulses (p : Config.Params) (gs : List (Nat × Nat)) : Prop :=
  (∃ g ∈ gs, BadHigh g.1) ∨ ∃ g ∈ gs, Config.ns p.tWindowNs ≤ g.2

theorem pulseSegs_concat_reverse (gs : List (Nat × Nat)) (g : Nat × Nat) (old : List Segment) :
    (pulseSegs (gs ++ [g])).reverse ++ old = .low g.2 :: .high g.1 :: ((pulseSegs gs).reverse ++ old) := by
  simp [pulseSegs]

/-- What the chain has received after pulses without a latch. -/
structure Received (p : Config.Params) (gs : List (Nat × Nat)) (before after : Chain) : Prop where
  bits : after.bits = (gs.filterMap fun g => bitOfHigh g.1).reverse ++ before.bits
  bad : after.bad = true ↔ before.bad = true ∨ BadPulses p gs
  shown : after.shown = before.shown

theorem chainOf_pulses {old : List Segment} {gs : List (Nat × Nat)} (hgs : ∀ g ∈ gs, g.2 < Config.ns p.tLatchNs) :
    Received p gs (chainOf p order old) (chainOf p order ((pulseSegs gs).reverse ++ old)) := by
  induction gs using List.reverseRecOn with
  | nil => exact ⟨rfl, by simp [BadPulses, pulseSegs], rfl⟩
  | append_singleton gs g ih =>
    obtain ⟨hbits, hbad, hshown⟩ := ih fun x hx => hgs x (List.mem_append_left _ hx)
    have hlow : g.2 < Config.ns p.tLatchNs := hgs g (by simp)
    rw [pulseSegs_concat_reverse, chainOf, chainOf, chainStep_low_of_pulse (chainStep_high_not_clean _ _) hlow,
      chainStep_high]
    have hnone : bitOfHigh g.1 = none ↔ BadHigh g.1 := bitOfHigh_eq_none
    cases hb : bitOfHigh g.1 with
    | some b =>
      have hgood : ¬ BadHigh g.1 := by rw [← hnone, hb]; nofun
      refine ⟨by simp [hb, hbits], ?_, hshown⟩
      simp [hbad, BadPulses, or_and_right, exists_or, hgood, or_assoc]
    | none =>
      have hbadHigh : BadHigh g.1 := hnone.1 hb
      refine ⟨by simp [hb, hbits], ?_, hshown⟩
      simp [BadPulses, or_and_right, exists_or, hbadHigh]

/-- What the chain displays after pulses that the latch gap after the last one ends. -/
theorem chainOf_latched {old : List Segment} {gs : List (Nat × Nat)} {q : Nat × Nat}
    (hbits : (chainOf p order old).bits = []) (hbad : (chainOf p order old).bad = false)
    (hgs : ∀ g ∈ gs, g.2 < Config.ns p.tLatchNs) (hq : Config.ns p.tLatchNs ≤ q.2) :
    ∃ bad : Bool, (bad = true ↔ (∃ g ∈ gs ++ [q], BadHigh g.1) ∨ ∃ g ∈ gs, Config.ns p.tWindowNs ≤ g.2) ∧
      (chainOf p order ((pulseSegs (gs ++ [q])).reverse ++ old)).shown =
        latchShown p.n order
          ⟨((gs ++ [q]).filterMap fun g => bitOfHigh g.1).reverse, bad, (chainOf p order old).shown⟩ := by
  obtain ⟨rbits, rbad, rshown⟩ := chainOf_pulses (order := order) (old := old) hgs
  rw [pulseSegs_concat_reverse, chainOf, chainOf, chainStep_high, chainStep_low, if_pos hq]
  have hnone : bitOfHigh q.1 = none ↔ BadHigh q.1 := bitOfHigh_eq_none
  rw [hbad] at rbad
  cases hb : bitOfHigh q.1 with
  | some b =>
    have hgood : ¬ BadHigh q.1 := by rw [← hnone, hb]; nofun
    refine ⟨(chainOf p order ((pulseSegs gs).reverse ++ old)).bad, ?_, by simp [rbits, rshown, hbits, hb]⟩
    simp [rbad, BadPulses, or_and_right, exists_or, hgood]
  | none =>
    have hbadHigh : BadHigh q.1 := hnone.1 hb
    refine ⟨true, ?_, by simp [rbits, rshown, hbits, hb]⟩
    simp [or_and_right, exists_or, hbadHigh]

/-- Time with the line low leaves a chain with nothing received as it is. -/
theorem chainStep_low_of_clean {c : Chain} (hbits : c.bits = []) (hbad : c.bad = false) (d : Nat) :
    chainStep p order c (.low d) = c := by
  obtain ⟨bits, bad, shown⟩ := c
  subst hbits hbad
  simp [chainStep, latchShown]

/-- A low segment leaves a clean chain only after a latch, or where the chain was clean. -/
theorem clean_of_chainStep_low {c : Chain} {d : Nat} (hbits : (chainStep p order c (.low d)).bits = [])
    (hbad : (chainStep p order c (.low d)).bad = false) :
    Config.ns p.tLatchNs ≤ d ∨ (c.bits = [] ∧ c.bad = false) := by
  rw [chainStep_low] at hbits hbad
  by_cases hlatch : Config.ns p.tLatchNs ≤ d
  · exact .inl hlatch
  · rw [if_neg hlatch] at hbits hbad
    split at hbits
    · rename_i hw
      rw [if_pos hw] at hbad
      exact .inr ⟨hbits, hbad⟩
    · rename_i hw
      rw [if_neg hw] at hbad
      split at hbad
      · exact .inr ‹_›
      · cases hbad

/-- Time with the line low leaves a chain with nothing received as it is, also where it extends a low segment. -/
theorem chainOf_extendSegs {w : List Segment} (hbits : (chainOf p order w).bits = [])
    (hbad : (chainOf p order w).bad = false) (d : Nat) : chainOf p order (extendSegs d w) = chainOf p order w := by
  unfold extendSegs
  split
  · rename_i e r
    rw [chainOf] at hbits hbad ⊢
    rw [chainOf]
    obtain he | ⟨rbits, rbad⟩ := clean_of_chainStep_low hbits hbad
    · rw [chainStep_low, chainStep_low, if_pos he, if_pos (Nat.le_add_right_of_le he)]
    · rw [chainStep_low_of_clean rbits rbad, chainStep_low_of_clean rbits rbad]
  · split
    · rfl
    · rw [chainOf, chainStep_low_of_clean hbits hbad]

/-! ### SHOWN after a latch -/

theorem latchShown_of_empty {bad : Bool} {shown : Shown} : latchShown p.n order ⟨[], bad, shown⟩ = shown := if_pos rfl

/-- Bits with something bad among them, or of a wrong number, leave SHOWN unspecified. -/
theorem latchShown_of_not_good {bits : List Bool} {bad : Bool} {shown : Shown} (hne : bits ≠ [])
    (h : bad = true ∨ bits.length ≠ 24 * p.n) : latchShown p.n order ⟨bits.reverse, bad, shown⟩ = .unspecified := by
  have hgood : ¬ (bits.reverse.length = 24 * p.n ∧ bad = false) := by
    rintro ⟨hlen, rfl⟩
    exact h.elim nofun fun hlen' => hlen' (by simpa using hlen)
  rw [latchShown, if_neg (by simpa using hne), if_neg hgood]

theorem frameBits_ne_nil {cs : List Rgb} (hcs : 1 ≤ cs.length) : frameBits order cs ≠ [] := by
  intro h
  have hlen := frameBits_length order cs
  rw [h, List.length_nil] at hlen
  omega

/-- The bits of a frame show its triplets. -/
theorem latchShown_frameBits {cs : List Rgb} {shown : Shown} (hn : 1 ≤ p.n) (hlen : cs.length = p.n) :
    latchShown p.n order ⟨(frameBits order cs).reverse, false, shown⟩ = .colours cs := by
  have hbits : (frameBits order cs).length = 24 * p.n := by rw [frameBits_length, hlen]
  have hne : (frameBits order cs).reverse ≠ [] := List.reverse_ne_nil_iff.2 (frameBits_ne_nil (hlen ▸ hn))
  rw [latchShown, if_neg hne, if_pos ⟨by simpa using hbits, rfl⟩, List.reverse_reverse, ← hlen, rgbsOfBits_frameBits]

end

/-- Settles O11: the pulses fill the chain bit by bit, the latch judges what it holds. -/
theorem observerJudgesEveryFrame : Obligations.ObserverJudgesEveryFrame := by
  intro p order old gs q hp hbits hbad hgs hq badHigh bits bad shown
  obtain ⟨bad', hbad', hshown⟩ := chainOf_latched hbits hbad hgs hq
  have hshown : shown = latchShown p.n order ⟨bits.reverse, bad', (chainOf p order old).shown⟩ := hshown
  have hbad' : bad' = true ↔ bad := hbad'
  rw [hshown]
  refine ⟨fun h => ?_, fun h hb => ?_, fun h hlen => ?_, fun cs hcs h hb => ?_, fun d => ?_⟩
  · rw [h]
    exact latchShown_of_empty
  · exact latchShown_of_not_good h (.inl (hbad'.2 hb))
  · exact latchShown_of_not_good h (.inr hlen)
  · have hgood : bad' = false := Bool.eq_false_iff.2 (mt hbad'.1 hb)
    rw [h, hgood]
    exact latchShown_frameBits hp.1.1 hcs
  · rw [chainOf_extendSegs hbits hbad]

end Sys2Proof.Machine
end

section
/-! PROOFS. The wire across a whole step: what every step keeps of W (40_transmitter.md R130, R131), and that the
sequencer sends only good frames (R139). -/

namespace Sys2Proof.Machine

/-! ### How W grows -/

/-- `w'` is `w` after pulses with legal high times and time with the line low, if the line is driven. -/
inductive WireGrows (oe : Bool) (w : List Segment) : List Segment → Prop
  | refl : WireGrows oe w w
  | pulse {w' : List Segment} {b : Bool} {dh : Nat} (dl : Nat) (hh : highLegal b dh) (g : WireGrows oe w w') :
      WireGrows oe w (ifDriven oe (.low dl :: .high dh :: w') w')
  | low {w' : List Segment} (d : Nat) (g : WireGrows oe w w') : WireGrows oe w (ifDriven oe (extendSegs d w') w')

/-- The record of `l'` has grown from the W `w`. -/
abbrev Line.GrownFrom (oe : Bool) (w : List Segment) (l' : Line) : Prop := WireGrows oe w l'.segs

section
variable {oe : Bool} {w w' : List Segment} {l : Line}

theorem WireGrows.undriven (h : WireGrows false w w') : w' = w := by
  induction h with
  | refl => rfl
  | pulse dl hh g ih => exact ih
  | low d g ih => exact ih

theorem mem_extendSegs_high {d e : Nat} (h : .high e ∈ extendSegs d w) : .high e ∈ w := by
  unfold extendSegs at h
  split at h
  · simpa using h
  · split at h
    · exact h
    · simpa using h

/-- A legal high time is that of a 0 bit or of a 1 bit (40_transmitter.md R131). -/
theorem highLegal.bounds {b : Bool} {d : Nat} (h : highLegal b d) : (0 < d ∧ d < Config.ns 500) ∨ Config.ns 625 ≤ d := by
  cases b with
  | false => exact .inl h
  | true => exact .inr h

theorem WireGrows.highsLegal (h : WireGrows oe w w') (hw : highsLegal w) : highsLegal w' := by
  induction h with
  | refl => exact hw
  | @pulse w' b dh dl hh g ih =>
    cases oe with
    | false => exact ih
    | true =>
      intro d hd
      obtain hd | rfl | hd : Segment.high d = .low dl ∨ d = dh ∨ .high d ∈ w' := by simpa [ifDriven] using hd
      · cases hd
      · exact hh.bounds
      · exact ih d hd
  | low d g ih =>
    cases oe with
    | false => exact ih
    | true => exact fun e he => ih e (mem_extendSegs_high he)

/-- The length of a low segment is no matter of what stands beside it. -/
theorem lowsApart_low (d e : Nat) (r : List Segment) : lowsApart (.low d :: r) = lowsApart (.low e :: r) := by
  cases r with
  | nil => rfl
  | cons g r => cases g <;> rfl

theorem lowsApart_extendSegs (d : Nat) (hw : lowsApart w = true) : lowsApart (extendSegs d w) = true := by
  unfold extendSegs
  split
  · rename_i e r
    rwa [lowsApart_low (e + d) e]
  · rename_i hne
    split
    · exact hw
    · cases w with
      | nil => rfl
      | cons g r =>
        cases g with
        | high e => exact hw
        | low e => exact absurd rfl (hne e r)

theorem WireGrows.lowsApart (h : WireGrows oe w w') (hw : lowsApart w = true) : lowsApart w' = true := by
  induction h with
  | refl => exact hw
  | pulse dl hh g ih => cases oe <;> exact ih
  | low d g ih =>
    cases oe with
    | false => exact ih
    | true => exact lowsApart_extendSegs d ih

theorem Line.GrownFrom.pulse (h : l.GrownFrom oe w) (window : Nat) (b tight : Bool) :
    (l.pulse oe window b tight).GrownFrom oe w := WireGrows.pulse _ (highTime_legal _ _) h

theorem Line.GrownFrom.elapse (h : l.GrownFrom oe w) (m : Nat) : (l.elapse oe m).GrownFrom oe w := WireGrows.low _ h

theorem Line.GrownFrom.sendBits (h : l.GrownFrom oe w) (window : Nat) (bs : List Bool) :
    (l.sendBits oe window bs).GrownFrom oe w := by
  induction bs generalizing l with
  | nil => exact h
  | cons b bs ih => exact ih (h.pulse window b true)

theorem Line.GrownFrom.frame (h : l.GrownFrom oe w) (p : Config.Params) (bs : List Bool) :
    (l.frame oe p bs).GrownFrom oe w := ((h.sendBits p.tWindowNs bs).elapse 0).elapse p.tLatchNs

theorem Line.GrownFrom.frames (h : l.GrownFrom oe w) (p : Config.Params) (order : Bool) (css : List (List Rgb)) :
    (l.frames oe p order css).GrownFrom oe w := by
  induction css generalizing l with
  | nil => exact h
  | cons cs css ih => exact ih (h.frame p (frameBits order cs))

theorem Line.GrownFrom.oneBit (h : l.GrownFrom oe w) (window : Nat) (im b : Bool) :
    (l.oneBit oe window im b).GrownFrom oe w := by
  cases im with
  | true => exact h.pulse window b true
  | false => exact (h.pulse window b false).elapse 0

theorem Line.GrownFrom.oneByte (h : l.GrownFrom oe w) (window : Nat) (im : Bool) (v : Byte) :
    (l.oneByte oe window im v).GrownFrom oe w := by
  cases im with
  | true => exact h.sendBits window (byteBits v)
  | false => exact ((h.sendBits window ((byteBits v).take 7)).pulse window (v.getLsbD 0) false).elapse 0

theorem Line.GrownFrom.oneColour (h : l.GrownFrom oe w) (window : Nat) (im order : Bool) (c : Rgb) :
    (l.oneColour oe window im order c).GrownFrom oe w := by
  cases im with
  | true => exact h.sendBits window (colourBits order c)
  | false => exact (h.sendBits window (colourBits order c)).elapse 0

end

section
variable {s t : State}

theorem OnlyFrames.wireGrows (h : OnlyFrames s t) : WireGrows s.oe s.line.segs t.line.segs := by
  obtain ⟨css, -, hwire⟩ := h
  have hline : t.line = s.line.frames s.oe s.par s.order css := congrArg (·.2.2.2) hwire
  have hself : s.line.GrownFrom s.oe s.line.segs := .refl
  rw [hline]
  exact hself.frames s.par s.order css

theorem OnlyLow.wireGrows (h : OnlyLow s t) : WireGrows s.oe s.line.segs t.line.segs := by
  obtain ⟨d, hd⟩ := h
  rw [hd]
  exact .low d .refl

/-- Every operation makes W grow by pulses and low time. -/
theorem exec_wireGrows {i : Instr} (e : exec i s = .next t) : WireGrows s.oe s.line.segs t.line.segs := by
  have hself : s.line.GrownFrom s.oe s.line.segs := .refl
  cases hi : sendsBits i with
  | false =>
    obtain h | h := exec_onlyFrames_or_onlyLow hi e
    · exact h.wireGrows
    · exact h.wireGrows
  | true =>
    cases i with
    | sendbit b =>
      cases e
      rw [State.sendBit_eq]
      exact hself.oneBit _ _ _
    | sendbyte v =>
      cases e
      rw [State.sendByte_eq]
      exact hself.oneByte _ _ _
    | sendcolor r g b =>
      cases e
      rw [State.sendColor_eq]
      exact hself.oneColour _ _ _ _
    | _ => cases hi

theorem coreStep_wireGrows (e : coreStep s = .next t) : WireGrows s.oe s.line.segs t.line.segs := by
  obtain ⟨u, hu, hwire⟩ := coreStep_runsOne e
  obtain ⟨-, -, -, hline⟩ := State.wire_eq_iff.1 hwire
  rw [hline]
  obtain rfl | ⟨i, -, hi⟩ := hu
  · exact .refl
  · exact exec_wireGrows hi

/-- No move of CORE stops driving the line. -/
theorem coreStep_oe (e : coreStep s = .next t) (h : s.oe = true) : t.oe = true := by
  obtain ⟨u, hu, hwire⟩ := coreStep_runsOne e
  obtain ⟨-, -, hoe, -⟩ := State.wire_eq_iff.1 hwire
  rw [hoe]
  obtain rfl | ⟨i, -, hi⟩ := hu
  · exact h
  · exact (exec_ran hi).stat.oe h

/-- Before PINCFG a client's operation leaves the sequencer where it is; the sequencer itself issues PINCFG. -/
theorem coreStep_pinsConfigured (e : coreStep s = .next t) (h : s.PinsConfigured) : t.PinsConfigured := by
  obtain hoe | ⟨hq, hpart⟩ := h
  · exact .inl (coreStep_oe e hoe)
  · cases hp : s.pending with
    | nil => exact .inl (coreStep_pincfg hp hq hpart e).1
    | cons w r =>
      rw [coreStep, hp] at e
      simp only [issueWord] at e
      split at e
      · cases e
      · obtain ⟨u, hu, e⟩ := andThen_eq_next.1 e
        cases e
        have hsu := exec_ran hu
        exact .inr ⟨by simpa [hsu.seq] using hq, by simpa [hsu.part] using hpart⟩

end

/-- Settles O12: CORE's move makes W grow, the environment's turn leaves it or empties it. -/
theorem stepKeepsTheWireLegal : Obligations.StepKeepsTheWireLegal := by
  intro s t e
  obtain ⟨u, hu, e⟩ := andThen_eq_next.1 e
  cases e
  obtain ⟨hwire, hq, hpart⟩ | ⟨v, hv⟩ := u.envTurn_wire_or_powerOn
  · obtain ⟨-, -, hoe, hline⟩ := State.wire_eq_iff.1 hwire
    have hgrows := coreStep_wireGrows hu
    have hpins (h : u.PinsConfigured) : u.envTurn.PinsConfigured := by rwa [State.PinsConfigured, hoe, hq, hpart]
    rw [hline, hoe]
    refine ⟨hgrows.highsLegal, hgrows.lowsApart, fun hempty huoe => ?_, hpins ∘ coreStep_pinsConfigured hu⟩
    have hsoe : s.oe = false := Bool.eq_false_iff.2 fun h => by simp [coreStep_oe hu h] at huoe
    rw [hsoe] at hgrows
    rw [hgrows.undriven, hempty hsoe]
  · rw [hv]
    exact ⟨fun _ => nofun, fun _ => rfl, fun _ _ => rfl, fun _ => .inr ⟨rfl, rfl⟩⟩

/-! ### The frames of a step -/

section
variable {s t : State} {p : Config.Params} {order : Bool} {l : Line}

/-- Frames on a driven line, as segments: one good frame for each, in order. -/
theorem exists_goodFrames (hp : s.par.Legal) (css : List (List Rgb)) (hlen : ∀ cs ∈ css, cs.length = s.par.n) :
    ∃ fs : List (List Rgb × List (Nat × Nat)), fs.map Prod.fst = css ∧ (∀ f ∈ fs, GoodFrame s f.1 f.2) ∧
      (s.line.frames true s.par s.order css).segs = (fs.flatMap fun f => pulseSegs f.2).reverse ++ s.line.segs := by
  induction css using List.reverseRecOn with
  | nil => exact ⟨[], rfl, nofun, rfl⟩
  | append_singleton css cs ih =>
    obtain ⟨fs, hmap, hgood, hsegs⟩ := ih fun x hx => hlen x (List.mem_append_left _ hx)
    have hcs : cs.length = s.par.n := hlen cs (by simp)
    have hbits : frameBits s.order cs ≠ [] := frameBits_ne_nil (hcs ▸ hp.1.1)
    obtain ⟨ps, hps, hlast, hseg⟩ :=
      Line.frame_segs (legal_gaps hp).1 hbits (s.line.frames true s.par s.order css)
    refine ⟨fs ++ [(cs, ps)], by simp [hmap], fun f hf => ?_, ?_⟩
    · obtain hf | hf := List.mem_append.1 hf
      · exact hgood f hf
      · rw [List.mem_singleton.1 hf]
        exact ⟨hcs, hps, hlast⟩
    · rw [Line.frames_concat, hseg, hsegs]
      simp

/-- A chain with nothing half received has nothing half received after frames. -/
theorem chainOf_frames_clean (hp : p.Legal) (css : List (List Rgb)) (hlen : ∀ cs ∈ css, cs.length = p.n)
    (hbits : (chainOf p order l.segs).bits = []) (hbad : (chainOf p order l.segs).bad = false) :
    (chainOf p order (l.frames true p order css).segs).bits = [] ∧
      (chainOf p order (l.frames true p order css).segs).bad = false := by
  induction css using List.reverseRecOn with
  | nil => exact ⟨hbits, hbad⟩
  | append_singleton css cs ih =>
    obtain ⟨ihbits, ihbad⟩ := ih fun x hx => hlen x (List.mem_append_left _ hx)
    rw [Line.frames_concat, chainOf_frame hp order (hlen cs (by simp)) _ ihbits ihbad]
    exact ⟨rfl, rfl⟩

/-- After frames the chain displays the last of them. -/
theorem chainOf_frames_concat (hp : p.Legal) (css : List (List Rgb)) (cs : List Rgb)
    (hlen : ∀ ds ∈ css ++ [cs], ds.length = p.n) (hbits : (chainOf p order l.segs).bits = [])
    (hbad : (chainOf p order l.segs).bad = false) :
    (chainOf p order (l.frames true p order (css ++ [cs])).segs).shown = .colours cs := by
  obtain ⟨cbits, cbad⟩ := chainOf_frames_clean hp css (fun x hx => hlen x (List.mem_append_left _ hx)) hbits hbad
  rw [Line.frames_concat, chainOf_frame hp order (hlen cs (by simp)) _ cbits cbad]

/-- What the chain has received, as a function of the wire. -/
def State.chain (s : State) : Chain := chainOf s.par s.order s.line.segs

theorem State.chain_eq (hcfg : t.cfg = s.cfg) (hpar : t.par = s.par) :
    t.chain = chainOf s.par s.order t.line.segs := by rw [State.chain, State.order, State.order, hcfg, hpar]

/-- From `s` to `t` W gains good frames, or low time; the chain has nothing half received and displays the last of the
frames, or what it displayed before. -/
def FramesShown (s t : State) : Prop :=
  ∃ fs : List (List Rgb × List (Nat × Nat)), (∀ f ∈ fs, GoodFrame s f.1 f.2) ∧ ChainClean t ∧
    (fs = [] → (∃ d, t.line.segs = extendSegs d s.line.segs) ∧ t.shown = s.shown) ∧
    (fs ≠ [] → t.wireHistory = s.wireHistory ++ fs.flatMap (fun f => pulseSegs f.2) ∧
      ∃ f, fs.getLast? = some f ∧ t.shown = .colours f.1)

/-- Time with the line low shows nothing new. -/
theorem FramesShown.of_low {d : Nat} (hclean : ChainClean s) (hcfg : t.cfg = s.cfg) (hpar : t.par = s.par)
    (hsegs : t.line.segs = extendSegs d s.line.segs) : FramesShown s t := by
  have hchain : t.chain = s.chain := by
    rw [State.chain_eq hcfg hpar, hsegs]
    exact chainOf_extendSegs hclean.1 hclean.2 d
  have htclean : t.chain.bits = [] ∧ t.chain.bad = false := by rw [hchain]; exact hclean
  exact ⟨[], nofun, htclean, fun _ => ⟨⟨d, hsegs⟩, congrArg Chain.shown hchain⟩, fun h => absurd rfl h⟩

/-- Nothing on the wire is low time of no length. -/
theorem FramesShown.of_segs (hclean : ChainClean s) (hcfg : t.cfg = s.cfg) (hpar : t.par = s.par)
    (hsegs : t.line.segs = s.line.segs) : FramesShown s t :=
  .of_low hclean hcfg hpar (hsegs.trans (extendSegs_zero _).symm)

/-- Frames on a driven line are good and are shown. -/
theorem OnlyFrames.framesShown (h : OnlyFrames s t) (hp : s.par.Legal) (hoe : s.oe = true) (hclean : ChainClean s) :
    FramesShown s t := by
  obtain ⟨css, hlen, hwire⟩ := h
  obtain ⟨hcfg, hpar, -, hline⟩ : t.cfg = s.cfg ∧ t.par = s.par ∧ t.oe = s.oe ∧
      t.line = s.line.frames true s.par s.order css := by simpa [State.wire, State.wireAfter, hoe] using hwire
  obtain rfl | ⟨init, cs, rfl⟩ := List.eq_nil_or_concat css
  · exact .of_segs hclean hcfg hpar (by rw [hline]; rfl)
  · rw [List.concat_eq_append] at hlen hline
    obtain ⟨fs, hmap, hgood, hsegs⟩ := exists_goodFrames hp _ hlen
    have hchain : t.chain = chainOf s.par s.order (s.line.frames true s.par s.order (init ++ [cs])).segs := by
      rw [State.chain_eq hcfg hpar, hline]
    have htclean : t.chain.bits = [] ∧ t.chain.bad = false := by
      rw [hchain]
      exact chainOf_frames_clean hp _ hlen hclean.1 hclean.2
    have hshown : t.chain.shown = .colours cs := by
      rw [hchain]
      exact chainOf_frames_concat hp init cs hlen hclean.1 hclean.2
    have hlast : (fs.map Prod.fst).getLast? = some cs := by simp [hmap]
    obtain ⟨f, hf, rfl⟩ : ∃ f, fs.getLast? = some f ∧ f.1 = cs := by simpa [List.getLast?_map] using hlast
    refine ⟨fs, hgood, htclean, ?_, fun _ => ⟨?_, f, hf, hshown⟩⟩
    · rintro rfl
      cases hf
    · rw [State.wireHistory, State.wireHistory, hline, hsegs]
      simp

/-- What the environment does outside a reset shows nothing new. -/
theorem FramesShown.congr {u : State} (h : FramesShown s u) (hwire : t.wire = u.wire) : FramesShown s t := by
  obtain ⟨hcfg, hpar, -, hline⟩ := State.wire_eq_iff.1 hwire
  have hchain : t.chain = u.chain := by rw [State.chain_eq hcfg hpar, hline]; rfl
  have hshown : t.shown = u.shown := congrArg Chain.shown hchain
  obtain ⟨fs, hgood, hclean, hnone, hsome⟩ := h
  have htclean : t.chain.bits = [] ∧ t.chain.bad = false := by rw [hchain]; exact hclean
  refine ⟨fs, hgood, htclean, ?_, ?_⟩
  · rwa [hline, hshown]
  · rwa [State.wireHistory, hline, hshown]

/-- A move of the sequencer: before PINCFG it is PINCFG; after it the line is driven, and a label issues no sender. -/
theorem coreStep_framesShown (hp : s.par.Legal) (hpend : s.pending = []) (hpins : s.PinsConfigured)
    (hclean : ChainClean s) (e : coreStep s = .next t) : FramesShown s t := by
  obtain hoe | ⟨hq, hpart⟩ := hpins
  · obtain ⟨l, -, e⟩ := coreStep_next_of_label hpend e
    obtain ⟨u, hu, hwire⟩ := seqLabel_runsOne e
    refine FramesShown.congr ?_ hwire
    obtain rfl | ⟨i, hi, hx⟩ := hu
    · exact .of_segs hclean rfl rfl rfl
    · obtain h | ⟨d, hd⟩ := exec_onlyFrames_or_onlyLow hi hx
      · exact h.framesShown hp hoe hclean
      · rw [State.lowFor, if_pos hoe] at hd
        have hsu := exec_ran hx
        exact .of_low hclean hsu.cfg hsu.par hd
  · obtain ⟨-, hcfg, hpar, hline⟩ := coreStep_pincfg hpend hq hpart e
    exact .of_segs hclean hcfg hpar (by rw [hline])

end

/-- Settles O60: the frames of CORE's move, which the environment's turn keeps, unless a reset empties W. -/
theorem sequencerSendsOnlyGoodFrames : Obligations.SequencerSendsOnlyGoodFrames := by
  intro s t hs hauto hpins hclean e
  obtain ⟨u, hu, e⟩ := andThen_eq_next.1 e
  cases e
  obtain ⟨hwire, -⟩ | ⟨v, hv⟩ := u.envTurn_wire_or_powerOn
  · exact .inr ((coreStep_framesShown hs.1 hauto.1 hpins hclean hu).congr hwire)
  · rw [hv]
    exact .inl rfl

end Sys2Proof.Machine
end

section
/-! PROOFS. The ColorModel (41_color_model.md R152, R153, R155): the triplet of each phase, what a legal gamma table puts
in it, and the two operations that leave it in RGB. -/

namespace Sys2Proof.Machine

/-! ### The phase mapping -/

@[simp] theorem phaseMap_zero (n c : Byte) : phaseMap 0 n c = mkRgb n c 0 := rfl
@[simp] theorem phaseMap_one (n c : Byte) : phaseMap 1 n c = mkRgb 0 n c := rfl
@[simp] theorem phaseMap_two (n c : Byte) : phaseMap 2 n c = mkRgb c 0 n := rfl

/-- The channels by the range of the hue: the falling one, the rising one, and the one that is off. -/
theorem phaseMap_channels {h : Nat} (hh : h ≤ 191) (n c : Byte) :
    (h < 64 → red (phaseMap (h / 64) n c) = n ∧ green (phaseMap (h / 64) n c) = c ∧ blue (phaseMap (h / 64) n c) = 0) ∧
      (64 ≤ h → h < 128 →
        red (phaseMap (h / 64) n c) = 0 ∧ green (phaseMap (h / 64) n c) = n ∧ blue (phaseMap (h / 64) n c) = c) ∧
      (128 ≤ h →
        red (phaseMap (h / 64) n c) = c ∧ green (phaseMap (h / 64) n c) = 0 ∧ blue (phaseMap (h / 64) n c) = n) := by
  refine ⟨fun h0 => ?_, fun h1 h1' => ?_, fun h2 => ?_⟩
  · have hp : h / 64 = 0 := by omega
    simp [hp]
  · have hp : h / 64 = 1 := by omega
    simp [hp]
  · have hp : h / 64 = 2 := by omega
    simp [hp]

/-- Every phase permutes the same three values over the channels: 0, the falling one and the rising one. -/
theorem channels_phaseMap_perm {p : Nat} (hp : p ≤ 2) (n c : Byte) :
    [red (phaseMap p n c), green (phaseMap p n c), blue (phaseMap p n c)].Perm [0, n, c] := by
  obtain rfl | rfl | rfl : p = 0 ∨ p = 1 ∨ p = 2 := by omega
  · simpa using (List.perm_append_comm (l₁ := [n, c]) (l₂ := [0]))
  · simp
  · simpa using (List.perm_append_comm (l₁ := [c]) (l₂ := [0, n]))

theorem phaseMap_zero_zero (p : Nat) : phaseMap p 0 0 = 0 := by
  unfold phaseMap
  split
  · rfl
  · split <;> rfl

/-! ### A legal gamma table (00_scope.md R11) -/

section
variable {g : List Byte} (hg : Config.GammaLegal g)
include hg

theorem gammaLegal_getD_mem {i : Nat} (hi : i < 64) : g.getD i 0 ∈ g := by
  obtain ⟨hlen, -⟩ := hg
  rw [List.getD_eq_getElem g 0 (by omega)]
  exact List.getElem_mem _

theorem gammaLegal_zero_mem : (0 : Byte) ∈ g := by
  have ⟨_, hzero, _⟩ := hg
  rw [← hzero]
  exact gammaLegal_getD_mem hg (by omega)

theorem gammaLegal_getD_le {i j : Nat} (hij : i ≤ j) (hj : j < 64) : g.getD i 0 ≤ g.getD j 0 := by
  obtain ⟨hlen, -, -, hmono⟩ := hg
  rw [List.getD_eq_getElem g 0 (by omega), List.getD_eq_getElem g 0 (by omega)]
  have hrefl : Std.Refl (α := Byte) (· ≤ ·) := ⟨BitVec.le_refl⟩
  exact hmono.rel_get_of_le (a := ⟨i, by omega⟩) (b := ⟨j, by omega⟩) hij

/-- A table value at a shifted index of 0 to 63 is in the table and not above the value at the shifted 63. -/
theorem gammaLegal_getD_shifted {i : Nat} (hi : i ≤ 63) (k : Nat) :
    g.getD (i / 2 ^ k) 0 ∈ g ∧ g.getD (i / 2 ^ k) 0 ≤ g.getD (63 / 2 ^ k) 0 := by
  have hle : i / 2 ^ k ≤ 63 / 2 ^ k := Nat.div_le_div_right hi
  have hlt : 63 / 2 ^ k < 64 := Nat.lt_succ_of_le (Nat.div_le_self 63 _)
  exact ⟨gammaLegal_getD_mem hg (hle.trans_lt hlt), gammaLegal_getD_le hg hle hlt⟩

end

/-! ### The two conversions on operands in their domain -/

/-- The gamma conversion, with each shift written as a division. -/
theorem hue2rgb_eq_ok (g : List Byte) {h : Byte} {l : Level} (hh : h.toNat ≤ 191) (hl : l.toNat ≤ 6) :
    hue2rgb g h l = .ok (phaseMap (h.toNat / 64) (g.getD ((63 - h.toNat % 64) / 2 ^ (6 - l.toNat)) 0)
      (g.getD (h.toNat % 64 / 2 ^ (6 - l.toNat)) 0)) := by
  rw [hue2rgb, if_neg (by omega), if_neg (by omega)]
  simp only [gammaAt, Nat.shiftRight_eq_div_pow]

theorem hue2rgbl_eq_ok {h : Byte} (hh : h.toNat ≤ 191) :
    hue2rgbl h = .ok (phaseMap (h.toNat / 64) ((252 : Byte) - (h &&& 63) <<< 2) ((h &&& 63) <<< 2)) := by
  rw [hue2rgbl, if_neg (by omega)]

/-- The rising channel of the linear conversion. -/
theorem toNat_linear_rising (h : Byte) : ((h &&& 63) <<< 2).toNat = 4 * (h.toNat % 64) := by
  have hstep : (h &&& 63).toNat = h.toNat % 64 := Nat.and_two_pow_sub_one_eq_mod h.toNat 6
  rw [BitVec.toNat_shiftLeft, hstep, Nat.shiftLeft_eq]
  omega

/-- The falling channel of the linear conversion: the subtraction does not wrap. -/
theorem toNat_linear_falling (h : Byte) : ((252 : Byte) - (h &&& 63) <<< 2).toNat = 252 - 4 * (h.toNat % 64) := by
  have hrising := toNat_linear_rising h
  rw [BitVec.toNat_sub_of_le, hrising]
  · rfl
  · rw [BitVec.le_def, hrising]
    change _ ≤ 252
    omega

/-! ### HUE2RGB and HUE2RGBL -/

theorem exec_hue2rgb_eq_next {h : Byte} {l : Level} {s : State} {c : Rgb} (e : hue2rgb s.par.gamma h l = .ok c) :
    exec (.hue2rgb h l) s = .next { s with rgb := c } := by
  change s.putColour (hue2rgb s.par.gamma h l) = _
  rw [e]
  rfl

theorem exec_hue2rgbl_eq_next {h : Byte} {s : State} {c : Rgb} (e : hue2rgbl h = .ok c) :
    exec (.hue2rgbl h) s = .next { s with rgb := c } := by
  change s.putColour (hue2rgbl h) = _
  rw [e]
  rfl

/-- Settles O16: the channels are 0 and two values of the table, permuted by the phase, so what holds of those three
holds of each channel. -/
theorem hue2rgbChannelProperties : Obligations.Hue2rgbChannelProperties := by
  intro g h l hg hh hl
  have hphase : h.toNat / 64 ≤ 2 := by omega
  have hperm := channels_phaseMap_perm hphase (g.getD ((63 - h.toNat % 64) / 2 ^ (6 - l.toNat)) 0)
    (g.getD (h.toNat % 64 / 2 ^ (6 - l.toNat)) 0)
  have ⟨_, hfirst, hlast, _⟩ := hg
  refine ⟨_, h.toNat % 64, 63 - h.toNat % 64, hue2rgb_eq_ok g hh hl, by omega, rfl, fun hp => ?_, fun hp => ?_,
    fun hp => ?_, ?_, ?_, fun v hv => ?_⟩
  · simp [hp]
  · simp [hp]
  · simp [hp]
  · rintro rfl
    have hshift : 6 - (0 : Level).toNat = 6 := rfl
    have hcol : h.toNat % 64 / 2 ^ 6 = 0 := Nat.div_eq_of_lt (by omega)
    have hncol : (63 - h.toNat % 64) / 2 ^ 6 = 0 := Nat.div_eq_of_lt (by omega)
    rw [hshift, hcol, hncol, hfirst, phaseMap_zero_zero]
  · rintro rfl hend
    have hshift : 6 - (6 : Level).toNat = 0 := rfl
    rw [(hperm.filter _).length_eq, hshift, pow_zero, Nat.div_one, Nat.div_one]
    obtain hstep | hstep := hend
    · rw [hstep, Nat.sub_zero, hfirst, hlast]; rfl
    · rw [hstep, Nat.sub_self, hfirst, hlast]; rfl
  · rw [hperm.mem_iff] at hv
    simp only [List.mem_cons, List.not_mem_nil, or_false] at hv
    obtain rfl | rfl | rfl := hv
    · exact ⟨gammaLegal_zero_mem hg, Nat.zero_le _⟩
    · exact gammaLegal_getD_shifted hg (by omega) _
    · exact gammaLegal_getD_shifted hg (by omega) _

/-- Settles O13: the triplet by the phase of the hue. -/
theorem hue2rgbConvertsWithGamma : Obligations.Hue2rgbConvertsWithGamma := by
  intro h l s hh hl
  exact ⟨_, exec_hue2rgb_eq_next (hue2rgb_eq_ok s.par.gamma hh hl), rfl, phaseMap_channels hh _ _⟩

/-- Settles O14: as for the gamma conversion, with 4 times the step and its complement. -/
theorem hue2rgblConvertsLinearly : Obligations.Hue2rgblConvertsLinearly := by
  intro h s hh
  obtain ⟨h0, h1, h2⟩ := phaseMap_channels hh ((252 : Byte) - (h &&& 63) <<< 2) ((h &&& 63) <<< 2)
  refine ⟨_, exec_hue2rgbl_eq_next (hue2rgbl_eq_ok hh), rfl, fun hlt => ?_, fun hge hlt => ?_, fun hge => ?_⟩
  · simp only [h0 hlt, toNat_linear_rising, toNat_linear_falling, and_self]
  · simp only [h1 hge hlt, toNat_linear_rising, toNat_linear_falling, and_self]
  · simp only [h2 hge, toNat_linear_rising, toNat_linear_falling, and_self]

end Sys2Proof.Machine
end

section
/-! PROOFS. The PixelStrip (42_pixel_strip.md R166 to R172): the loops over all entries, the rotation and its N-th
repetition, and the frame of a strip that is off. -/

namespace Sys2Proof.Machine

/-! ### The operations on a state -/

/-- A state that differs from another at most in the strip, and reads the same strip, is that state. -/
theorem State.eq_of_strip_eq {s t : State} (eq : t = { s with strip := t.strip }) (h : t.strip = s.strip) : t = s := by
  rw [eq, h]

theorem exec_pxset_eq_next (i : Byte) {h : Byte} {l : Level} (s : State) (hh : h.toNat ≤ 191) (hl : l.toNat ≤ 6) :
    exec (.pxset i h l) s = .next (s.putEntry (s.wrap i.toNat) (mkEntry h l)) := s.storePixel_eq i.toNat hh hl

theorem exec_pxget (i : Byte) (s : State) :
    exec (.pxget i) s = .next { s with pxr := s.strip.read (s.wrap i.toNat) } := rfl

theorem exec_fade (s : State) : exec .fade s = .next s.fadeStrip := rfl

theorem exec_clear (s : State) : exec .clear s = .next s.clearStrip := rfl

theorem exec_rotate (s : State) : exec .rotate s = .next s.rotateStrip := rfl

/-- The operations of the strip keep it in range (R172). -/
theorem StripOk.exec {s t : State} (h : StripOk s) (hn : 1 ≤ s.par.n) {i x : Byte} {l : Level} {op : Instr}
    (hop : op ∈ [.pxset i x l, .pxget i, .fade, .clear, .fill x l, .rotate]) (e : exec op s = .next t) :
    StripOk t := by
  simp only [List.mem_cons, List.not_mem_nil, or_false] at hop
  obtain rfl | rfl | rfl | rfl | rfl | rfl := hop
  · obtain ⟨hx, hl, rfl⟩ := State.storePixel_next e
    exact h.putEntry (State.wrap_lt hn _) (by simpa using hx) (by simpa using hl)
  · cases e; exact ⟨h.wf, h.range⟩
  · cases e; exact h.fade
  · cases e; exact h.clear
  · obtain ⟨hx, hl, rfl⟩ := State.fillStrip_next e
    exact h.fill hx hl
  · cases e; exact h.rotate hn

/-! ### One entry -/

/-- Settles O17: the read after the one write. -/
theorem pxsetStoresOneEntry : Obligations.PxsetStoresOneEntry := by
  intro i h l s hwf hh hl
  have hread := Memory.read_write hwf (s.wrap i.toNat) (mkEntry h l)
  have hsame := (hread _).trans (if_pos rfl)
  refine ⟨_, exec_pxset_eq_next i s hh hl, rfl, ?_, ?_, fun a ha => (hread a).trans (if_neg ha)⟩
  · exact (congrArg entryHue hsame).trans (entryHue_mkEntry h l)
  · exact (congrArg entryLevel hsame).trans (entryLevel_mkEntry h l)

/-- Settles O18: an entry is its level and its hue side by side. -/
theorem pxgetLoadsOneEntry : Obligations.PxgetLoadsOneEntry := by
  intro i s
  exact ⟨by rw [BitVec.append_assoc, BitVec.cast_eq]; rfl, _, exec_pxget i s, rfl, (mkEntry_eta _).symm⟩

/-! ### The loops over all entries -/

section
variable {m : Memory} (hm : m.wf) {n : Nat} {f : Nat → Entry → Entry}
include hm

theorem Memory.read_mapFirst_of_lt {a : Nat} (ha : a < n) : (m.mapFirst n f).read a = f a (m.read a) := by
  rw [Memory.read_mapFirst hm, if_pos ha]

theorem Memory.read_mapFirst_of_le {a : Nat} (ha : n ≤ a) : (m.mapFirst n f).read a = m.read a := by
  rw [Memory.read_mapFirst hm, if_neg (Nat.not_lt.2 ha)]

/-- A loop whose body keeps the hue keeps every hue. -/
theorem Memory.entryHue_read_mapFirst (hf : ∀ p e, entryHue (f p e) = entryHue e) (a : Nat) :
    entryHue ((m.mapFirst n f).read a) = entryHue (m.read a) := by
  obtain ha | ha := Nat.lt_or_ge a n
  · rw [Memory.read_mapFirst_of_lt hm ha, hf]
  · rw [Memory.read_mapFirst_of_le hm ha]

/-- A loop whose body is idempotent is idempotent. -/
theorem Memory.mapFirst_mapFirst (hf : ∀ p e, f p (f p e) = f p e) :
    (m.mapFirst n f).mapFirst n f = m.mapFirst n f := by
  have hm' := Memory.wf_mapFirst hm n f
  refine Memory.ext_of_read (Memory.wf_mapFirst hm' n f) hm' fun a => ?_
  obtain ha | ha := Nat.lt_or_ge a n
  · rw [Memory.read_mapFirst_of_lt hm' ha, Memory.read_mapFirst_of_lt hm ha, hf]
  · rw [Memory.read_mapFirst_of_le hm' ha]

end

@[simp] theorem entryHue_dimEntry (e : Entry) : entryHue (dimEntry e) = entryHue e := by
  rw [dimEntry_eq, entryHue_mkEntry]

/-- One brightness step down, 0 staying 0 (R167). -/
theorem toNat_entryLevel_dimEntry (e : Entry) : (entryLevel (dimEntry e)).toNat = (entryLevel e).toNat - 1 := by
  have hlt := (entryLevel e).isLt
  rw [dimEntry_eq, entryLevel_mkEntry, BitVec.toNat_ofNat, Nat.mod_eq_of_lt (by omega)]

/-- Settles O19: `dimEntry` on every entry of the loop. -/
theorem fadeDimsEveryPixel : Obligations.FadeDimsEveryPixel := by
  intro s hwf
  refine ⟨_, exec_fade s, rfl, fun p hp => ?_, fun p => ?_, fun a ha => ?_⟩
  · rw [State.fadeStrip_strip, Memory.read_mapFirst_of_lt hwf hp, toNat_entryLevel_dimEntry]
  · exact Memory.entryHue_read_mapFirst hwf (fun _ => entryHue_dimEntry) p
  · exact Memory.read_mapFirst_of_le hwf ha

/-- CLEAR twice is CLEAR once (R168). -/
theorem State.clearStrip_clearStrip {s : State} (hwf : s.strip.wf) : s.clearStrip.clearStrip = s.clearStrip :=
  State.eq_of_strip_eq rfl (Memory.mapFirst_mapFirst hwf fun _ e => by simp [withLevel])

/-- Every pixel is off after CLEAR (R168). -/
theorem State.entryLevel_clearStrip {s : State} (hwf : s.strip.wf) {p : Nat} (hp : p < s.par.n) :
    entryLevel (s.clearStrip.strip.read p) = 0 := by
  rw [State.clearStrip_strip, Memory.read_mapFirst_of_lt hwf hp, entryLevel_withLevel]

/-- Settles O20: level 0 in every entry of the loop, whose body is idempotent. -/
theorem clearTurnsEveryPixelOff : Obligations.ClearTurnsEveryPixelOff := by
  intro s hwf
  refine ⟨_, exec_clear s, rfl, fun p hp => State.entryLevel_clearStrip hwf hp, fun p => ?_, fun a ha => ?_, ?_⟩
  · exact Memory.entryHue_read_mapFirst hwf (fun _ => entryHue_withLevel 0) p
  · exact Memory.read_mapFirst_of_le hwf ha
  · rw [exec_clear, State.clearStrip_clearStrip hwf]

/-- Settles O21: the same pair in every entry of the loop. -/
theorem fillSetsEveryPixel : Obligations.FillSetsEveryPixel := by
  intro h l s hwf hh hl
  refine ⟨_, s.fillStrip_eq hh hl, rfl, fun p hp => ?_,
    fun a ha => Memory.read_mapFirst_of_le (f := fun _ _ => mkEntry h l) hwf ha⟩
  rw [Memory.read_mapFirst_of_lt hwf hp]
  exact ⟨entryHue_mkEntry h l, entryLevel_mkEntry h l⟩

/-! ### The rotation -/

/-- ROTATE moves entry p to the next higher index, the last to 0 (R170). -/
theorem State.read_rotateStrip_succ_mod {s : State} (hwf : s.strip.wf) {p : Nat} (hp : p < s.par.n) :
    s.rotateStrip.strip.read ((p + 1) % s.par.n) = s.strip.read p := by
  rw [Memory.read_rotate hwf]
  obtain hlast | hlt := Nat.eq_or_lt_of_le (Nat.succ_le_of_lt hp)
  · have hzero : (p + 1) % s.par.n = 0 := by rw [← hlast, Nat.mod_self]
    have hpred : s.par.n - 1 = p := by omega
    rw [if_pos hzero, hpred]
  · rw [Nat.mod_eq_of_lt hlt, if_neg (Nat.succ_ne_zero p), if_pos hlt, Nat.succ_sub_one]

/-- `t` is `s` with every entry moved `k` indices up, modulo N, and nothing else changed. -/
structure RotatedBy (k : Nat) (s t : State) : Prop where
  frame : t = { s with strip := t.strip }
  wf : t.strip.wf
  moved : ∀ p, p < s.par.n → t.strip.read ((p + k) % s.par.n) = s.strip.read p
  above : ∀ a, s.par.n ≤ a → t.strip.read a = s.strip.read a

theorem RotatedBy.zero {s : State} (hwf : s.strip.wf) : RotatedBy 0 s s where
  frame := rfl
  wf := hwf
  moved p hp := by rw [Nat.add_zero, Nat.mod_eq_of_lt hp]
  above _ _ := rfl

/-- ROTATE moves every entry one index further. -/
theorem RotatedBy.rotate {k : Nat} {s t : State} (hn : 1 ≤ s.par.n) (h : RotatedBy k s t) :
    RotatedBy (k + 1) s t.rotateStrip := by
  have hpar : t.par = s.par := by rw [h.frame]
  refine ⟨?_, Memory.wf_rotate h.wf, fun p hp => ?_, fun a ha => ?_⟩
  · rw [State.rotateStrip, h.frame]
  · have hlt : (p + k) % s.par.n < t.par.n := by rw [hpar]; exact Nat.mod_lt _ hn
    have hstep := State.read_rotateStrip_succ_mod h.wf hlt
    rwa [hpar, Nat.mod_add_mod, h.moved p hp] at hstep
  · have hzero : a ≠ 0 := by omega
    rw [Memory.read_rotate h.wf, hpar, if_neg hzero, if_neg (Nat.not_lt.2 ha), h.above a ha]

/-- After N steps every entry is back at its own index (R170). -/
theorem RotatedBy.eq_self {s t : State} (h : RotatedBy s.par.n s t) (hwf : s.strip.wf) : t = s := by
  refine State.eq_of_strip_eq h.frame (Memory.ext_of_read h.wf hwf fun a => ?_)
  obtain ha | ha := Nat.lt_or_ge a s.par.n
  · rw [← h.moved a ha, Nat.add_mod_right, Nat.mod_eq_of_lt ha]
  · exact h.above a ha

/-- One step, read at the index an entry arrives at. -/
theorem RotatedBy.read_of_one {s t : State} (h : RotatedBy 1 s t) {p : Nat} (hp : p < s.par.n) :
    t.strip.read p = s.strip.read ((p + s.par.n - 1) % s.par.n) := by
  have hn : 0 < s.par.n := by omega
  have harrive : ((p + s.par.n - 1) % s.par.n + 1) % s.par.n = p := by
    rw [Nat.mod_add_mod, Nat.sub_add_cancel (by omega), Nat.add_mod_right, Nat.mod_eq_of_lt hp]
  rw [← h.moved _ (Nat.mod_lt _ hn), harrive]

/-- Settles O22: `k` rotations move every entry by `k`; one gives the first part, N the second. -/
theorem rotateMovesEveryPixel : Obligations.RotateMovesEveryPixel := by
  refine ⟨rfl, fun s hwf hn => ⟨?_, ?_⟩⟩
  · have hone : RotatedBy 1 s s.rotateStrip := (RotatedBy.zero hwf).rotate hn
    exact ⟨_, exec_rotate s, hone.frame, fun p => hone.read_of_one, hone.above⟩
  · obtain ⟨t, ht, hrot⟩ := forEach_completes (P := fun k => RotatedBy k s) (f := fun _ => exec .rotate) s.par.n
      (.zero hwf) fun _ u _ hu => ⟨_, exec_rotate u, hu.rotate hn⟩
    rw [ht, hrot.eq_self hwf]

/-! ### The frame of a strip that is off (R172) -/

/-- A pixel that is off converts to (0,0,0), whatever its hue and the strap CVAR. -/
theorem convert_eq_zero_of_off (cvar : Bool) {g : List Byte} (hg : Config.GammaLegal g) {e : Entry}
    (hh : (entryHue e).toNat ≤ 191) (hl : entryLevel e = 0) : convert cvar g e = .ok 0 := by
  cases cvar with
  | true => rw [convert, if_pos rfl, if_pos hl]
  | false =>
    obtain ⟨c, _, _, hc, _, _, _, _, _, hzero, _⟩ := hue2rgbChannelProperties g (entryHue e) (entryLevel e) hg hh
      (by rw [hl]; decide)
    rw [convert, if_neg Bool.false_ne_true, hc, hzero hl]

theorem colourBits_zero (order : Bool) : colourBits order 0 = List.replicate 24 false := by
  cases order <;> rfl

theorem frameBits_replicate_zero (order : Bool) (n : Nat) :
    frameBits order (List.replicate n 0) = List.replicate (24 * n) false := by
  rw [frameBits, List.flatMap_replicate, colourBits_zero, List.flatten_replicate_replicate, Nat.mul_comm]

/-- The frame of a strip with every pixel off: N times 24 bits, all 0. -/
theorem FrameSent.symbolHistory_of_off {s t : State} (h : FrameSent s t) (hg : Config.GammaLegal s.par.gamma)
    (hoff : ∀ p, p < s.par.n → (entryHue (t.strip.read p)).toNat ≤ 191 ∧ entryLevel (t.strip.read p) = 0) :
    t.symbolHistory = s.symbolHistory ++ List.replicate (24 * s.par.n) .b0 ++ [.latch] := by
  obtain ⟨cs, _, ⟨hlen, _⟩, hconv, _, hsyms, _⟩ := h
  have hcs : cs = List.replicate s.par.n 0 := by
    refine List.eq_replicate_iff.2 ⟨hlen, fun c hc => ?_⟩
    obtain ⟨p, hp, rfl⟩ := List.mem_iff_getElem.1 hc
    obtain ⟨hhue, hlevel⟩ := hoff p (hlen ▸ hp)
    have hok := hconv p (hlen ▸ hp)
    rw [convert_eq_zero_of_off _ hg hhue hlevel, List.getD_eq_getElem cs 0 hp] at hok
    exact (Except.ok.inj hok).symm
  rw [hsyms, hcs, frameBits_replicate_zero, List.map_replicate]
  rfl

/-- CLEAR and then SHOW. -/
theorem clear_show_symbolHistory {s : State} (hp : s.par.Legal) (h : StripOk s) :
    ∃ t, andThen (exec .clear s) (exec .showFrame) = .next t ∧
      t.symbolHistory = s.symbolHistory ++ List.replicate (24 * s.par.n) .b0 ++ [.latch] := by
  obtain ⟨t, ht, hframe, heq⟩ := State.showStrip_frame (s := s.clearStrip) hp h.clear.range
  have hkept : t.strip = s.clearStrip.strip := by rw [heq]
  have ⟨_, hgamma, _⟩ := hp
  refine ⟨t, ht, hframe.symbolHistory_of_off hgamma fun p hlt => ?_⟩
  rw [hkept]
  exact ⟨(h.clear.range.read p).1, State.entryLevel_clearStrip h.wf hlt⟩

/-- The second of two writes of one pixel is what ROTATE moves on. -/
theorem pxset_pxset_rotate_read {s : State} (hwf : s.strip.wf) (hn : 1 ≤ s.par.n) (i : Byte) {h h' : Byte}
    {l l' : Level} (hh : h.toNat ≤ 191) (hl : l.toNat ≤ 6) (hh' : h'.toNat ≤ 191) (hl' : l'.toNat ≤ 6) :
    ∃ t, andThen (exec (.pxset i h l) s) (fun u => andThen (exec (.pxset i h' l') u) (exec .rotate)) = .next t ∧
      t.strip.read ((i.toNat + 1) % s.par.n) = mkEntry h' l' := by
  rw [exec_pxset_eq_next i s hh hl, andThen_next, exec_pxset_eq_next i _ hh' hl', andThen_next]
  refine ⟨_, exec_rotate _, ?_⟩
  have hwf1 : (s.putEntry (s.wrap i.toNat) (mkEntry h l)).strip.wf := Memory.wf_write hwf _ _
  have hwf2 := Memory.wf_write hwf1 (s.wrap i.toNat) (mkEntry h' l')
  have hmoved := State.read_rotateStrip_succ_mod (s := (s.putEntry (s.wrap i.toNat) (mkEntry h l)).putEntry
    (s.wrap i.toNat) (mkEntry h' l')) hwf2 (State.wrap_lt hn i.toNat)
  rw [State.putEntry_strip, Memory.read_write hwf1, if_pos rfl] at hmoved
  rwa [← Nat.mod_add_mod]

/-- Settles O23: the ranges, the four operations that answer from every state, and the two sequences of R172. -/
theorem stripProperties : Obligations.StripProperties := by
  intro s hp hwf hstrip
  have hok : StripOk s := ⟨hwf, hstrip⟩
  refine ⟨fun i h l op t hop e a => (hok.exec hp.1.1 hop e).range.read a, fun i op hop => ?_, fun i => ?_,
    clear_show_symbolHistory hp hok⟩
  · simp only [List.mem_cons, List.not_mem_nil, or_false] at hop
    obtain rfl | rfl | rfl | rfl := hop
    · exact ⟨_, exec_fade s⟩
    · exact ⟨_, exec_clear s⟩
    · exact ⟨_, exec_rotate s⟩
    · exact ⟨_, exec_pxget i s⟩
  · exact pxset_pxset_rotate_read hwf hp.1.1 i (by decide) (by decide) (by decide) (by decide)

end Sys2Proof.Machine
end

section
/-! PROOFS. The AnimationEngine (43_animation.md R186 to R195): the strip that each state draws, and the one frame it
sends of it. -/

namespace Sys2Proof.Machine

/-! ### FX0, ANEXT and ATICK, which send no frame -/

/-- Settles O26: FX0 is one write of the three registers; half of N fits the index of a comet. -/
theorem fx0SetsTheComets : Obligations.Fx0SetsTheComets := by
  intro s hp
  have hn : s.par.n ≤ 255 := hp.1.2
  have hidx : (cometIdx (mkComet 96 (BitVec.ofNat 8 (s.par.n / 2)))).toNat = s.par.n / 2 := by
    rw [cometIdx_mkComet, ofNat8_toNat_of_lt (by omega)]
  exact ⟨_, rfl, cometIdx_mkComet 0 0, cometHue_mkComet 0 0, hidx, cometHue_mkComet 96 _, rfl, rfl⟩

/-- Settles O34: ANEXT is one write of AST and TCNT; AST has three bits. -/
theorem anextAdvancesTheState : Obligations.AnextAdvancesTheState :=
  ⟨rfl, fun s => ⟨s.advanceAst, rfl, BitVec.toNat_add s.ast 1, rfl, rfl⟩⟩

/-- ATICK at the end of a display period (R195). -/
theorem execAtick_of_last {s : State} (h : s.tcnt.toNat + 1 = s.par.autoTicks) :
    execAtick s = .next s.advanceAst := if_pos h

/-- ATICK within a display period (R195). -/
theorem execAtick_of_not_last {s : State} (h : s.tcnt.toNat + 1 ≠ s.par.autoTicks) :
    execAtick s = .next { s with tcnt := s.tcnt + 1 } := if_neg h

/-- Settles O35: the two branches of ATICK; a count below AUTO_TICKS has room in TCNT for the next one. -/
theorem atickCountsPeriods : Obligations.AtickCountsPeriods := by
  intro s hs
  refine ⟨fun h => ⟨execAtick_of_last h, s.advanceAst, execAtick_of_last h, rfl, rfl, rfl⟩, fun h => ?_⟩
  refine ⟨_, execAtick_of_not_last h, BitVec.toNat_add_of_lt ?_, rfl⟩
  have hlt := hs.registers.tcnt
  have hle := hs.registers.legal.2.2.1.2
  show s.tcnt.toNat + 1 < 2 ^ 8
  omega

/-! ### The frame at the end -/

/-- SHOW after writes that touch neither the straps, the parameters, STAT nor the record: the one frame of the whole
operation. -/
theorem State.showStrip_after {s u : State} (h : RegistersInRange u) (hcfg : u.cfg = s.cfg) (hpar : u.par = s.par)
    (hstat : u.stat = s.stat) (hline : u.line = s.line) :
    ∃ t, u.showStrip = .next t ∧ FrameSent s t ∧ t = { u with stat := t.stat, rgb := t.rgb, line := t.line } := by
  obtain ⟨t, ht, hframe, heq⟩ := State.showStrip_frame h.legal h.strip
  exact ⟨t, ht, hframe.congr hcfg.symm hpar.symm hstat.symm hline.symm rfl rfl rfl rfl, heq⟩

/-- AST written after the frame: the frame is as it was. -/
theorem FrameSent.setAst {s t : State} (h : FrameSent s t) (a : BitVec 3) : FrameSent s { t with ast := a } :=
  h.congr rfl rfl rfl rfl rfl rfl rfl rfl

/-! ### The comets (R187) -/

theorem toNat_cometHue_stepComet (n : Nat) (c : BitVec 16) :
    (cometHue (stepComet n c)).toNat = ((cometHue c).toNat + 1) % 192 := by
  have hlt := Nat.mod_lt ((cometHue c).toNat + 1) (show 0 < 192 by decide)
  rw [stepComet, cometHue_mkComet, ofNat8_toNat_of_lt (by omega)]

theorem toNat_cometIdx_stepComet {n : Nat} (hn : 1 ≤ n ∧ n ≤ 255) (c : BitVec 16) :
    (cometIdx (stepComet n c)).toNat = ((cometIdx c).toNat + 1) % n := by
  have hlt := Nat.mod_lt ((cometIdx c).toNat + 1) hn.1
  rw [stepComet, cometIdx_mkComet, ofNat8_toNat_of_lt (by omega)]

/-- A pixel at full brightness at an index that is one. -/
theorem State.storePixel_full_of_lt {s : State} {i : Nat} {h : Byte} (hh : h.toNat ≤ 191) (hi : i < s.par.n) :
    s.storePixel i h fullLevel = .next (s.putEntry i (mkEntry h fullLevel)) := by
  rw [State.storePixel_eq _ _ hh (by decide), State.wrap_of_lt hi]

/-- The strip with the pixel of comet `c`. -/
def State.putComet (c : BitVec 16) (s : State) : State :=
  s.putEntry (cometIdx c).toNat (mkEntry (cometHue c) fullLevel)

theorem State.drawComet_eq {s : State} {c : BitVec 16} (hh : (cometHue c).toNat ≤ 191)
    (hi : (cometIdx c).toNat < s.par.n) : s.drawComet c = .next (s.putComet c) :=
  State.storePixel_full_of_lt hh hi

/-- The state whose frame FX1 sends: comet B is drawn over comet A. -/
def State.cometsDrawn (s : State) : State :=
  (s.fadeStrip.stepComets.putComet (stepComet s.par.n s.ca)).putComet (stepComet s.par.n s.cb)

/-- FX1 is the frame of the moved comets. -/
theorem execFx1_eq {s : State} (h : RegistersInRange s) :
    execFx1 s = s.cometsDrawn.showStrip ∧ RegistersInRange s.cometsDrawn := by
  have hmoved : RegistersInRange s.fadeStrip.stepComets := (fadeStrip_ran.trans stepComets_ran).ranges h
  have hdrawA : s.fadeStrip.stepComets.drawComet (stepComet s.par.n s.ca) = .next _ :=
    State.drawComet_eq hmoved.cometHues.1 hmoved.cometIdxs.1
  have hranA : RegistersInRange _ := (storePixel_ran (k := .shared) hdrawA).ranges hmoved
  have hdrawB : (s.fadeStrip.stepComets.putComet (stepComet s.par.n s.ca)).drawComet (stepComet s.par.n s.cb) =
      .next s.cometsDrawn := State.drawComet_eq hranA.cometHues.2 hranA.cometIdxs.2
  refine ⟨?_, (storePixel_ran (k := .shared) hdrawB).ranges hranA⟩
  show andThen (s.fadeStrip.stepComets.drawComet (stepComet s.par.n s.ca)) _ = _
  rw [hdrawA, andThen_next]
  show andThen ((s.fadeStrip.stepComets.putComet _).drawComet (stepComet s.par.n s.cb)) _ = _
  rw [hdrawB, andThen_next]

/-- An entry after FADE (42_pixel_strip.md R167). -/
theorem State.read_fadeStrip {s : State} (hwf : s.strip.wf) {p : Nat} (hp : p < s.par.n) :
    s.fadeStrip.strip.read p =
      mkEntry (entryHue (s.strip.read p)) (BitVec.ofNat 3 ((entryLevel (s.strip.read p)).toNat - 1)) := by
  rw [State.fadeStrip_strip, Memory.read_mapFirst_of_lt hwf hp, dimEntry_eq]

theorem State.read_cometsDrawn {s : State} (hwf : s.strip.wf) {p : Nat} (hp : p < s.par.n) :
    s.cometsDrawn.strip.read p =
      if p = (cometIdx (stepComet s.par.n s.cb)).toNat then mkEntry (cometHue (stepComet s.par.n s.cb)) 6
      else if p = (cometIdx (stepComet s.par.n s.ca)).toNat then mkEntry (cometHue (stepComet s.par.n s.ca)) 6
      else mkEntry (entryHue (s.strip.read p)) (BitVec.ofNat 3 ((entryLevel (s.strip.read p)).toNat - 1)) := by
  have hfaded : s.fadeStrip.strip.wf := Memory.wf_mapFirst hwf _ _
  rw [← State.read_fadeStrip hwf hp]
  refine (Memory.read_write (Memory.wf_write hfaded _ _) _ _ p).trans (if_congr Iff.rfl rfl ?_)
  exact Memory.read_write hfaded _ _ p

/-- Settles O27: the frame of the moved comets, drawn on the faded strip. -/
theorem fx1MovesTheComets : Obligations.Fx1MovesTheComets := by
  intro s hs
  have hr := hs.registers
  have hn := hr.legal.1
  obtain ⟨hexec, hdrawn⟩ := execFx1_eq hr
  obtain ⟨t, ht, hframe, heq⟩ := State.showStrip_after (s := s) hdrawn rfl rfl rfl rfl
  have hca : t.ca = stepComet s.par.n s.ca := by rw [heq]; rfl
  have hcb : t.cb = stepComet s.par.n s.cb := by rw [heq]; rfl
  have hstrip : t.strip = s.cometsDrawn.strip := by rw [heq]
  refine ⟨t, hexec.trans ht, ?_, ?_, ?_, ?_, fun p hp => ?_, hframe, by rw [heq]; rfl⟩
  · rw [hca, toNat_cometHue_stepComet]
  · rw [hca, toNat_cometIdx_stepComet hn]
  · rw [hcb, toNat_cometHue_stepComet]
  · rw [hcb, toNat_cometIdx_stepComet hn]
  · rw [hstrip, hca, hcb, State.read_cometsDrawn hr.wf hp]

/-! ### The scatter (R188) -/

/-- "for j = 0 to k - 1: entry (idx j) <- val j". -/
def Memory.writeSeq (idx : Nat → Nat) (val : Nat → Entry) : Nat → Memory → Memory
  | 0, m => m
  | k + 1, m => (Memory.writeSeq idx val k m).write (idx k) (val k)

section
variable {m : Memory} (hm : m.wf) (idx : Nat → Nat) (val : Nat → Entry)
include hm

theorem Memory.wf_writeSeq (k : Nat) : (m.writeSeq idx val k).wf := by
  induction k with
  | zero => exact hm
  | succ k ih => exact Memory.wf_write ih _ _

theorem Memory.read_writeSeq_succ (k a : Nat) :
    (m.writeSeq idx val (k + 1)).read a = if a = idx k then val k else (m.writeSeq idx val k).read a :=
  Memory.read_write (Memory.wf_writeSeq hm idx val k) _ _ _

/-- An address that is never written is kept. -/
theorem Memory.read_writeSeq_of_forall_ne {k a : Nat} (h : ∀ j, j < k → idx j ≠ a) :
    (m.writeSeq idx val k).read a = m.read a := by
  induction k with
  | zero => rfl
  | succ k ih =>
    rw [Memory.read_writeSeq_succ hm, if_neg (h k (Nat.lt_succ_self k)).symm]
    exact ih fun j hj => h j (Nat.lt_succ_of_lt hj)

/-- The later write of one address wins. -/
theorem Memory.read_writeSeq_of_last {k j a : Nat} (hj : j < k) (hja : idx j = a)
    (hlast : ∀ j', j < j' → j' < k → idx j' ≠ a) : (m.writeSeq idx val k).read a = val j := by
  induction k with
  | zero => exact absurd hj (Nat.not_lt_zero j)
  | succ k ih =>
    rw [Memory.read_writeSeq_succ hm]
    obtain hlt | rfl := Nat.lt_succ_iff_lt_or_eq.1 hj
    · rw [if_neg (hlast k hlt (Nat.lt_succ_self k)).symm]
      exact ih hlt fun j' hjj' hj' => hlast j' hjj' (Nat.lt_succ_of_lt hj')
    · rw [if_pos hja.symm]

end

/-- A loop that takes `g p` to `g (p + 1)` ends in `g n`. -/
theorem forEach_range_eq {f : Nat → State → Result} {s : State} (g : Nat → State) (n : Nat) (h0 : g 0 = s)
    (h : ∀ p, p < n → f p (g p) = .next (g (p + 1))) : forEach f (List.range n) s = .next (g n) := by
  obtain ⟨_, ht, rfl⟩ := forEach_completes (P := fun p u => u = g p) n h0.symm fun p u hp hu => by
    rw [hu]
    exact ⟨_, h p hp, rfl⟩
  exact ht

/-- One pixel of the scatter: an index, then a hue, then the pixel. -/
def scatterOne (s : State) : Result :=
  andThen (prngNext s.par.n s) fun s1 =>
    andThen (prngNext 192 s1) fun s2 => s2.storePixel s1.rv.toNat (s2.rv.setWidth 8) fullLevel

theorem andThen_assoc (r : Result) (f g : State → Result) :
    andThen (andThen r f) g = andThen r fun u => andThen (f u) g := by
  cases r with
  | next s => rfl
  | fault e => cases e
  | refused q => rfl

theorem scatter_succ (k : Nat) (s : State) : scatter (k + 1) s = andThen (scatterOne s) (scatter k) := by
  simp only [scatter, scatterOne, andThen_assoc]

/-- The scatter as a loop, whose counter its body does not read. -/
theorem scatter_eq_forEach (ps : List Nat) (s : State) :
    scatter ps.length s = forEach (fun _ => scatterOne) ps s := by
  induction ps generalizing s with
  | nil => rfl
  | cons p ps ih =>
    rw [List.length_cons, scatter_succ, forEach_cons]
    exact congrArg (andThen (scatterOne s)) (funext ih)

/-- The index of the `j`-th scattered pixel, drawn from the generator state `v`. -/
def scatterIdx (n : Nat) (v : Word) (j : Nat) : Nat := (prngUpd^[2 * j + 1] v).toNat % n

/-- The entry of the `j`-th scattered pixel. -/
def scatterEntry (v : Word) (j : Nat) : Entry :=
  mkEntry (BitVec.ofNat 8 ((prngUpd^[2 * j + 2] v).toNat % 192)) fullLevel

/-- The state after the scatter of `k` pixels. -/
def State.scattered (s : State) (k : Nat) : State :=
  { s with
    prng := prngUpd^[2 * k] s.prng
    rv := if k = 0 then s.rv else BitVec.ofNat 32 ((prngUpd^[2 * k] s.prng).toNat % 192)
    strip := s.strip.writeSeq (scatterIdx s.par.n s.prng) (scatterEntry s.prng) k }

/-- What the generator returned, taken as a byte. -/
theorem rv_setWidth_eq (v : Word) (m : Nat) :
    (BitVec.ofNat 32 (v.toNat % m)).setWidth 8 = BitVec.ofNat 8 (v.toNat % m) := by
  rw [← BitVec.ofNat_toNat, rv_toNat]

/-- One pixel of the scatter, by the state of the generator. -/
theorem scatterOne_eq {s : State} (hn : s.par.n ≠ 0) :
    scatterOne s = .next
      { s with
        prng := prngUpd (prngUpd s.prng)
        rv := BitVec.ofNat 32 ((prngUpd (prngUpd s.prng)).toNat % 192)
        strip := s.strip.write ((prngUpd s.prng).toNat % s.par.n)
          (mkEntry (BitVec.ofNat 8 ((prngUpd (prngUpd s.prng)).toNat % 192)) fullLevel) } := by
  rw [scatterOne, prngNext_eq hn, andThen_next, prngNext_eq (by decide), andThen_next, rv_setWidth_eq, rv_toNat,
    State.storePixel_eq _ _ (ofNat8_mod_192_le _) (by decide)]
  simp only [State.putEntry, State.wrap, Nat.mod_mod]

theorem scatterOne_scattered {s : State} (hn : s.par.n ≠ 0) (k : Nat) :
    scatterOne (s.scattered k) = .next (s.scattered (k + 1)) := by
  have hidx : prngUpd (prngUpd^[2 * k] s.prng) = prngUpd^[2 * k + 1] s.prng :=
    (Function.iterate_succ_apply' ..).symm
  have hhue : prngUpd (prngUpd^[2 * k + 1] s.prng) = prngUpd^[2 * k + 2] s.prng :=
    (Function.iterate_succ_apply' ..).symm
  rw [scatterOne_eq (s := s.scattered k) hn]
  simp only [State.scattered, hidx, hhue]
  rfl

theorem scatter_eq {s : State} (hn : s.par.n ≠ 0) (k : Nat) : scatter k s = .next (s.scattered k) := by
  have hloop := scatter_eq_forEach (List.range k) s
  rw [List.length_range] at hloop
  exact hloop.trans (forEach_range_eq s.scattered k rfl fun p _ => scatterOne_scattered hn p)

/-- The faded strip, with the number of pixels of FX2 drawn into RV. -/
def State.sparkCounted (s : State) : State :=
  { s.fadeStrip with prng := prngUpd s.prng, rv := BitVec.ofNat 32 ((prngUpd s.prng).toNat % 4) }

/-- The state whose frame FX2 sends: `next(4)` pixels scattered over the faded strip. -/
def State.sparkled (s : State) : State := s.sparkCounted.scattered ((prngUpd s.prng).toNat % 4)

theorem execFx2_eq {s : State} (h : RegistersInRange s) :
    execFx2 s = s.sparkled.showStrip ∧ RegistersInRange s.sparkled := by
  have hn : s.par.n ≠ 0 := Nat.pos_iff_ne_zero.1 h.legal.1.1
  have hcount : prngNext 4 s.fadeStrip = .next s.sparkCounted := prngNext_eq (by decide) _
  have hscatter : scatter s.sparkCounted.rv.toNat s.sparkCounted = .next s.sparkled := by
    rw [scatter_eq (s := s.sparkCounted) hn, State.sparkled, State.sparkCounted, rv_toNat]
  constructor
  · rw [execFx2, hcount, andThen_next, hscatter, andThen_next]
  · exact (fadeStrip_ran.trans ((prngNext_ran hcount).trans (scatter_ran (k := .shared) _ hscatter))).ranges h

/-- The generator after the call for the number of pixels and `i` more. -/
theorem iterate_prngUpd_prngUpd (i : Nat) (v : Word) : prngUpd^[i] (prngUpd v) = prngUpd^[1 + i] v := by
  rw [Nat.add_comm, Function.iterate_succ_apply]

theorem State.rv_sparkled (s : State) :
    s.sparkled.rv.toNat =
      if (prngUpd s.prng).toNat % 4 = 0 then s.sparkled.prng.toNat % 4 else s.sparkled.prng.toNat % 192 := by
  simp only [State.sparkled, State.scattered, State.sparkCounted]
  split
  · rename_i h0
    rw [rv_toNat, h0, Nat.mul_zero, Function.iterate_zero_apply, h0]
  · rw [rv_toNat]

/-- Settles O28: the writes of the scatter over the faded strip, the last of each address winning, and the frame. -/
theorem fx2ScattersPixels : Obligations.Fx2ScattersPixels := by
  intro s hs k idx hue
  have hr := hs.registers
  obtain ⟨hexec, hdrawn⟩ := execFx2_eq hr
  obtain ⟨t, ht, hframe, heq⟩ := State.showStrip_after (s := s) hdrawn rfl rfl rfl rfl
  have hprng : t.prng = s.sparkled.prng := by rw [heq]
  have hrv : t.rv = s.sparkled.rv := by rw [heq]
  have hstrip : t.strip = s.fadeStrip.strip.writeSeq (scatterIdx s.par.n (prngUpd s.prng))
      (scatterEntry (prngUpd s.prng)) k := by rw [heq]; rfl
  have hfaded : s.fadeStrip.strip.wf := Memory.wf_mapFirst hr.wf _ _
  have hidx : scatterIdx s.par.n (prngUpd s.prng) = idx := by
    funext j
    rw [scatterIdx, iterate_prngUpd_prngUpd, ← Nat.add_assoc, Nat.add_right_comm]
  have hentry (j : Nat) : scatterEntry (prngUpd s.prng) j = mkEntry (hue j) 6 := by
    rw [scatterEntry, iterate_prngUpd_prngUpd, ← Nat.add_assoc, Nat.add_right_comm]
    rfl
  rw [hidx] at hstrip
  refine ⟨t, hexec.trans ht, ?_, ?_, fun p hp => ⟨fun j hj hjp hlast => ?_, fun hne => ?_⟩, hframe, by rw [heq]; rfl⟩
  · exact hprng.trans (iterate_prngUpd_prngUpd _ _)
  · rw [hrv, hprng, State.rv_sparkled]
  · rw [hstrip, Memory.read_writeSeq_of_last hfaded idx _ hj hjp hlast, hentry]
  · rw [hstrip, Memory.read_writeSeq_of_forall_ne hfaded idx _ hne, State.read_fadeStrip hr.wf hp]

/-! ### The loops over all pixels (R189 to R191) -/

/-- The state after a loop over the entries below `k` that for each draws `next(m)` and maps the entry by it. -/
def State.drawn (m : Nat) (g : Nat → Entry → Entry) (s : State) (k : Nat) : State :=
  { s with
    prng := prngUpd^[k] s.prng
    rv := if k = 0 then s.rv else BitVec.ofNat 32 ((prngUpd^[k] s.prng).toNat % m)
    strip := s.strip.mapFirst k fun p => g ((prngUpd^[p + 1] s.prng).toNat % m) }

section
variable {m : Nat} {g : Nat → Entry → Entry} {f : Nat → State → Result} {s : State}

/-- What one round of such a loop does to a state. -/
def State.drawOne (m : Nat) (g : Nat → Entry → Entry) (p : Nat) (s : State) : State :=
  { s with
    prng := prngUpd s.prng
    rv := BitVec.ofNat 32 ((prngUpd s.prng).toNat % m)
    strip := s.strip.write p (g ((prngUpd s.prng).toNat % m) (s.strip.read p)) }

theorem State.drawOne_drawn (k : Nat) : (s.drawn m g k).drawOne m g k = s.drawn m g (k + 1) := by
  have hupd : prngUpd (prngUpd^[k] s.prng) = prngUpd^[k + 1] s.prng := (Function.iterate_succ_apply' ..).symm
  simp only [State.drawOne, State.drawn, hupd, Memory.mapFirst_succ, if_neg (Nat.succ_ne_zero k)]

theorem forEach_draws (hf : ∀ p u, p < s.par.n → u.par = s.par → f p u = .next (u.drawOne m g p)) :
    forEach f (List.range s.par.n) s = .next (s.drawn m g s.par.n) :=
  forEach_range_eq (s.drawn m g) s.par.n rfl fun p hp => by
    rw [hf p (s.drawn m g p) hp rfl, State.drawOne_drawn]

theorem State.rv_drawn {k : Nat} (hk : k ≠ 0) : (s.drawn m g k).rv.toNat = (s.drawn m g k).prng.toNat % m := by
  simp only [State.drawn, if_neg hk, rv_toNat]

theorem State.read_drawn (hwf : s.strip.wf) {k p : Nat} (hp : p < k) :
    (s.drawn m g k).strip.read p = g ((prngUpd^[p + 1] s.prng).toNat % m) (s.strip.read p) :=
  Memory.read_mapFirst_of_lt hwf hp

end

/-- One pixel of state 3. -/
theorem randomPixel_eq {s : State} {p : Nat} (hp : p < s.par.n) :
    randomPixel p s = .next (s.drawOne 192 (fun d _ => mkEntry (BitVec.ofNat 8 d) fullLevel) p) := by
  rw [randomPixel, prngNext_eq (by decide), andThen_next, rv_setWidth_eq,
    State.storePixel_full_of_lt (ofNat8_mod_192_le _) (by exact hp)]
  rfl

/-- One pixel of state 4. -/
theorem driftPixel_eq {s : State} (hd : s.par.driftMax ≠ 0) (p : Nat) :
    driftPixel p s = .next (s.drawOne s.par.driftMax driftHue p) := by
  rw [driftPixel, prngNext_eq hd, andThen_next, rv_toNat]
  rfl

/-- The state whose frame FX3 sends. -/
def State.randomised (s : State) : State :=
  s.drawn 192 (fun d _ => mkEntry (BitVec.ofNat 8 d) fullLevel) s.par.n

theorem forEach_randomPixel {s : State} (h : RegistersInRange s) :
    forEach randomPixel (List.range s.par.n) s = .next s.randomised ∧ RegistersInRange s.randomised := by
  have hloop : forEach randomPixel (List.range s.par.n) s = .next s.randomised :=
    forEach_draws fun p u hp hpar => randomPixel_eq (by rwa [hpar])
  have hran : Ran .shared s s.randomised := forEach_ran (fun _ _ _ _ _ => randomPixel_ran) hloop
  exact ⟨hloop, hran.ranges h⟩

/-- Settles O29: the loop of the random hues, the frame, and AST written last. -/
theorem fx3RandomisesEveryPixel : Obligations.Fx3RandomisesEveryPixel := by
  intro s hs
  have hr := hs.registers
  have hn : s.par.n ≠ 0 := Nat.pos_iff_ne_zero.1 hr.legal.1.1
  obtain ⟨hloop, hdrawn⟩ := forEach_randomPixel hr
  obtain ⟨t, ht, hframe, heq⟩ := State.showStrip_after (s := s) hdrawn rfl rfl rfl rfl
  have hexec : execFx3 s = .next { t with ast := 4 } := by
    rw [execFx3, hloop, andThen_next, ht, andThen_next]
  have hprng : t.prng = s.randomised.prng := by rw [heq]
  have hrv : t.rv = s.randomised.rv := by rw [heq]
  have hstrip : t.strip = s.randomised.strip := by rw [heq]
  refine ⟨_, hexec, hprng, ?_, rfl, fun p hp => ?_, hframe.setAst 4, by rw [heq]; rfl⟩
  · show t.rv.toNat = t.prng.toNat % 192
    rw [hrv, hprng]
    exact State.rv_drawn hn
  · show t.strip.read p = _
    rw [hstrip]
    exact State.read_drawn hr.wf hp

/-- The state whose frame FX4 sends. -/
def State.drifted (s : State) : State := s.drawn s.par.driftMax driftHue s.par.n

theorem forEach_driftPixel {s : State} (h : RegistersInRange s) :
    forEach driftPixel (List.range s.par.n) s = .next s.drifted ∧ RegistersInRange s.drifted := by
  have hd : s.par.driftMax ≠ 0 := Nat.pos_iff_ne_zero.1 h.legal.2.2.2.2.2.1
  have hloop : forEach driftPixel (List.range s.par.n) s = .next s.drifted :=
    forEach_draws fun p u _ hpar => by rw [driftPixel_eq (by rwa [hpar]), hpar]
  exact ⟨hloop, (forEach_driftPixel_ran (k := .shared) hloop).ranges h⟩

theorem toNat_entryHue_driftHue (d : Nat) (e : Entry) :
    (entryHue (driftHue d e)).toNat = ((entryHue e).toNat + d) % 192 := by
  have hlt := Nat.mod_lt ((entryHue e).toNat + d) (show 0 < 192 by decide)
  rw [driftHue, entryHue_withHue, ofNat8_toNat_of_lt (by omega)]

/-- Settles O30: the loop of the drift, and the frame. -/
theorem fx4DriftsEveryHue : Obligations.Fx4DriftsEveryHue := by
  intro s hs
  have hr := hs.registers
  have hn : s.par.n ≠ 0 := Nat.pos_iff_ne_zero.1 hr.legal.1.1
  obtain ⟨hloop, hdrawn⟩ := forEach_driftPixel hr
  obtain ⟨t, ht, hframe, heq⟩ := State.showStrip_after (s := s) hdrawn rfl rfl rfl rfl
  have hexec : execFx4 s = .next t := by rw [execFx4, hloop, andThen_next, ht]
  have hprng : t.prng = s.drifted.prng := by rw [heq]
  have hrv : t.rv = s.drifted.rv := by rw [heq]
  have hstrip : t.strip = s.drifted.strip := by rw [heq]
  refine ⟨t, hexec, hprng, ?_, fun p hp => ?_, hframe, by rw [heq]; rfl⟩
  · rw [hrv, hprng]
    exact State.rv_drawn hn
  · rw [hstrip, State.drifted, State.read_drawn hr.wf hp]
    exact ⟨toNat_entryHue_driftHue _ _, entryLevel_withHue _ _⟩

/-- The spread of the rainbow stays among the hues (R191). -/
theorem rainbowHue_lt {n p : Nat} (hp : p < n) : p * 192 / n < 192 := by
  rw [Nat.div_lt_iff_lt_mul (by omega)]
  omega

theorem toNat_rainbowHue {n p : Nat} (hp : p < n) : (BitVec.ofNat 8 (p * 192 / n)).toNat = p * 192 / n :=
  ofNat8_toNat_of_lt ((rainbowHue_lt hp).trans (by decide))

/-- The state after the first `k` pixels of the rainbow. -/
def State.rainbowed (s : State) (k : Nat) : State :=
  { s with strip := s.strip.mapFirst k fun p _ => mkEntry (BitVec.ofNat 8 (p * 192 / s.par.n)) fullLevel }

theorem rainbowPixel_rainbowed {s : State} {p : Nat} (hp : p < s.par.n) :
    rainbowPixel p (s.rainbowed p) = .next (s.rainbowed (p + 1)) := by
  have hhue : (BitVec.ofNat 8 (p * 192 / s.par.n)).toNat ≤ 191 := by
    rw [toNat_rainbowHue hp]
    exact Nat.le_of_lt_succ (rainbowHue_lt hp)
  refine (State.storePixel_full_of_lt (s := s.rainbowed p) hhue hp).trans ?_
  simp only [State.putEntry, State.rainbowed, Memory.mapFirst_succ]

theorem State.read_rainbowed {s : State} (hwf : s.strip.wf) {k p : Nat} (hp : p < k) :
    (s.rainbowed k).strip.read p = mkEntry (BitVec.ofNat 8 (p * 192 / s.par.n)) fullLevel := by
  simp only [State.rainbowed, Memory.read_mapFirst_of_lt hwf hp]

theorem forEach_rainbowPixel {s : State} (h : RegistersInRange s) :
    forEach rainbowPixel (List.range s.par.n) s = .next (s.rainbowed s.par.n) ∧
      RegistersInRange (s.rainbowed s.par.n) := by
  have hloop : forEach rainbowPixel (List.range s.par.n) s = .next (s.rainbowed s.par.n) :=
    forEach_range_eq s.rainbowed s.par.n rfl fun p => rainbowPixel_rainbowed
  have hran : Ran .shared s (s.rainbowed s.par.n) := forEach_ran (fun _ _ _ _ _ => storePixel_ran) hloop
  exact ⟨hloop, hran.ranges h⟩

/-- Settles O31: the loop of the rainbow, the frame, and AST written last. -/
theorem fx5SetsTheRainbow : Obligations.Fx5SetsTheRainbow := by
  intro s hs
  have hr := hs.registers
  obtain ⟨hloop, hdrawn⟩ := forEach_rainbowPixel hr
  obtain ⟨t, ht, hframe, heq⟩ := State.showStrip_after (s := s) hdrawn rfl rfl rfl rfl
  have hexec : execFx5 s = .next { t with ast := 6 } := by
    rw [execFx5, hloop, andThen_next, ht, andThen_next]
  have hstrip : t.strip = (s.rainbowed s.par.n).strip := by rw [heq]
  refine ⟨_, hexec, rfl, fun p hp => ?_, hframe.setAst 6, by rw [heq]; rfl⟩
  show (entryHue (t.strip.read p)).toNat = _ ∧ entryLevel (t.strip.read p) = 6
  rw [hstrip, State.read_rainbowed hr.wf hp, entryHue_mkEntry, entryLevel_mkEntry, toNat_rainbowHue hp]
  exact ⟨rfl, rfl⟩

/-! ### The rotation and the fill (R192, R193) -/

/-- Settles O32: one rotation, and the frame. -/
theorem fx6RotatesTheRainbow : Obligations.Fx6RotatesTheRainbow := by
  intro s hs
  have hr := hs.registers
  have hrotated : RotatedBy 1 s s.rotateStrip := (RotatedBy.zero hr.wf).rotate hr.legal.1.1
  have hranges : RegistersInRange s.rotateStrip := (rotateStrip_ran (k := .shared)).ranges hr
  obtain ⟨t, ht, hframe, heq⟩ := State.showStrip_after (s := s) hranges rfl rfl rfl rfl
  have hstrip : t.strip = s.rotateStrip.strip := by rw [heq]
  refine ⟨t, ht, fun p hp => ?_, hframe, by rw [heq]; rfl⟩
  rw [hstrip, hrotated.read_of_one hp]

/-- The state whose frame FX7 sends: the global hue one step on, and every entry at it. -/
def State.breathed (s : State) : State :=
  { s with
    ghue := BitVec.ofNat 8 ((s.ghue.toNat + 1) % 192)
    strip := s.strip.mapFirst s.par.n fun _ _ => mkEntry (BitVec.ofNat 8 ((s.ghue.toNat + 1) % 192)) fullLevel }

theorem State.read_breathed {s : State} (hwf : s.strip.wf) {p : Nat} (hp : p < s.par.n) :
    s.breathed.strip.read p = mkEntry (BitVec.ofNat 8 ((s.ghue.toNat + 1) % 192)) fullLevel := by
  simp only [State.breathed, Memory.read_mapFirst_of_lt hwf hp]

theorem execFx7_eq {s : State} (h : RegistersInRange s) :
    execFx7 s = s.breathed.showStrip ∧ RegistersInRange s.breathed := by
  have hhue := ofNat8_mod_192_le (s.ghue.toNat + 1)
  have hfill := State.fillStrip_eq { s with ghue := BitVec.ofNat 8 ((s.ghue.toNat + 1) % 192) } (l := fullLevel) hhue
    (by decide)
  have hranges : RegistersInRange { s with ghue := BitVec.ofNat 8 ((s.ghue.toNat + 1) % 192) } :=
    { h with ghue := hhue }
  refine ⟨?_, (fillStrip_ran (k := .shared) hfill).ranges hranges⟩
  rw [execFx7, hfill]
  rfl

/-- Settles O33: the fill with the next global hue, and the frame. -/
theorem fx7BreathesOneHue : Obligations.Fx7BreathesOneHue := by
  intro s hs
  have hr := hs.registers
  obtain ⟨hexec, hdrawn⟩ := execFx7_eq hr
  obtain ⟨t, ht, hframe, heq⟩ := State.showStrip_after (s := s) hdrawn rfl rfl rfl rfl
  have hghue : t.ghue = BitVec.ofNat 8 ((s.ghue.toNat + 1) % 192) := by rw [heq]; rfl
  have hstrip : t.strip = s.breathed.strip := by rw [heq]
  refine ⟨t, hexec.trans ht, ?_, fun p hp => ?_, hframe, by rw [heq]; rfl⟩
  · have hlt := Nat.mod_lt (s.ghue.toNat + 1) (show 0 < 192 by decide)
    rw [hghue, ofNat8_toNat_of_lt (by omega)]
  · rw [hstrip, hghue, State.read_breathed hr.wf hp]
    rfl

end Sys2Proof.Machine
end

section
/-! PROOFS. Who writes AST (43_animation.md R196), and who calls the generator (45_prng.md R245, R249). -/

namespace Sys2Proof.Machine

/-! ### AST -/

section
variable {s t : State} {i : Instr}

theorem execAtick_ast (e : execAtick s = .next t) :
    t.ast = if s.tcnt.toNat + 1 = s.par.autoTicks then s.ast + 1 else s.ast := by
  by_cases h : s.tcnt.toNat + 1 = s.par.autoTicks
  · rw [execAtick_of_last h] at e
    cases e
    rw [if_pos h, State.advanceAst_ast]
  · rw [execAtick_of_not_last h] at e
    cases e
    rw [if_neg h]

/-- An operation outside the animation has a scope without AST; of the animation, five operations write it. -/
theorem exec_ast_kept (hi : i ∉ [Instr.fx0, .fx3, .fx5, .anext, .atick]) (e : exec i s = .next t) :
    t.ast = s.ast := by
  by_cases hk : scopeOf i = .animation
  · cases i with
    | fx0 | fx3 | fx5 | anext | atick => exact absurd (by decide) hi
    | fx1 => exact execFx1_ast e
    | fx2 => exact execFx2_ast e
    | fx4 => exact execFx4_ast e
    | fx6 => exact execFx6_ast e
    | fx7 => exact execFx7_ast e
    | _ => cases hk
  · exact congrArg Prod.fst ((exec_ran e).animation hk)

end

/-! ### The operations that keep S -/

section
variable {s t : State}

theorem storePixel_prng {i : Nat} {h : Byte} {l : Level} (e : s.storePixel i h l = .next t) : t.prng = s.prng := by
  obtain ⟨-, -, rfl⟩ := State.storePixel_next e
  rfl

theorem fillStrip_prng {h : Byte} {l : Level} (e : s.fillStrip h l = .next t) : t.prng = s.prng := by
  obtain ⟨-, -, rfl⟩ := State.fillStrip_next e
  rfl

theorem putColour_prng {c : Except Refusal Rgb} (e : s.putColour c = .next t) : t.prng = s.prng := by
  rw [(State.putColour_next e).2]

theorem showStrip_prng (e : s.showStrip = .next t) : t.prng = s.prng := by
  obtain ⟨cs, -, rfl⟩ := State.showStrip_next e
  rw [State.sendFrame_frame]

theorem EnvMoved.prng (h : EnvMoved s t) : t.prng = s.prng := by rw [h.eq]

/-- A loop keeps S when its body does. -/
theorem forEach_prng {f : Nat → State → Result} (hf : ∀ p u v, f p u = .next v → v.prng = u.prng) {ps : List Nat}
    (e : forEach f ps s = .next t) : t.prng = s.prng := by
  induction ps generalizing s with
  | nil => cases e; rfl
  | cons p ps ih =>
    obtain ⟨u, hu, e⟩ := andThen_eq_next.1 e
    exact (ih e).trans (hf p s u hu)

theorem waitDelay_prng {u : DelayUnit} {n : Nat} {finish : State → State} (hf : ∀ v, (finish v).prng = v.prng)
    (e : s.waitDelay u n finish = .next t) : t.prng = s.prng := by
  obtain ⟨-, rfl⟩ | ⟨-, -, -, rfl⟩ | ⟨-, -, -, rfl⟩ | ⟨-, -, rfl⟩ := State.waitDelay_next e
  · exact hf _
  · exact hf _
  · rfl
  · rfl

theorem execFx1_prng (e : execFx1 s = .next t) : t.prng = s.prng := by
  obtain ⟨s1, e1, e⟩ := andThen_eq_next.1 e
  obtain ⟨s2, e2, e⟩ := andThen_eq_next.1 e
  have hfirst := storePixel_prng e1
  exact ((showStrip_prng e).trans (storePixel_prng e2)).trans hfirst

theorem execFx5_prng (e : execFx5 s = .next t) : t.prng = s.prng := by
  obtain ⟨s1, e1, e⟩ := andThen_eq_next.1 e
  obtain ⟨s2, e2, e⟩ := andThen_eq_next.1 e
  cases e
  exact (showStrip_prng e2).trans (forEach_prng (fun _ _ _ => storePixel_prng) e1)

theorem execFx7_prng (e : execFx7 s = .next t) : t.prng = s.prng := by
  obtain ⟨s1, e1, e⟩ := andThen_eq_next.1 e
  have hfill := fillStrip_prng e1
  exact (showStrip_prng e).trans hfill

theorem execAtick_prng (e : execAtick s = .next t) : t.prng = s.prng := by
  unfold execAtick at e
  split at e <;> cases e <;> rfl

theorem renderGame_prng (e : s.renderGame = .next t) : t.prng = s.prng := by
  obtain ⟨s1, e1, e⟩ := andThen_eq_next.1 e
  obtain ⟨s2, e2, e⟩ := andThen_eq_next.1 e
  have hfirst := storePixel_prng e1
  exact ((showStrip_prng e).trans (storePixel_prng e2)).trans hfirst

theorem gameStep_prng (e : s.gameStep = .next t) : t.prng = s.prng := (renderGame_prng e).trans rfl

theorem execWfe_prng (e : execWfe s = .next t) : t.prng = s.prng := by
  obtain ⟨-, e⟩ := unlessCritical_next e
  split at e <;> cases e <;> rfl

theorem execArmwake_prng {n : BitVec 24} (e : execArmwake n s = .next t) : t.prng = s.prng := by
  unfold execArmwake at e
  split at e <;> cases e
  rfl

theorem execIrqon_prng (e : execIrqon s = .next t) : t.prng = s.prng := by
  unfold execIrqon at e
  split at e <;> cases e <;> rfl

theorem execWaitrel_prng (e : execWaitrel s = .next t) : t.prng = s.prng := by
  obtain ⟨-, e⟩ := unlessCritical_next e
  dsimp only at e
  split at e <;> cases e <;> rfl

/-- The operations that call the generator (45_prng.md R249), themselves or through GRESET and GCATCH. -/
def callsPrng : Instr → Bool
  | .rnext _ | .fx2 | .fx3 | .fx4 | .greset | .gcatch | .ginit | .gpoll => true
  | _ => false

theorem eq_rnext_or_mem_of_callsPrng {i : Instr} (h : callsPrng i = true) :
    (∃ m, i = .rnext m) ∨ i ∈ [Instr.fx2, .fx3, .fx4, .greset, .gcatch, .ginit, .gpoll] := by
  cases i with
  | rnext m => exact .inl ⟨m, rfl⟩
  | fx2 | fx3 | fx4 | greset | gcatch | ginit | gpoll => exact .inr (by decide)
  | _ => cases h

/-- Every other operation keeps S. -/
theorem exec_prng_kept {i : Instr} (hi : callsPrng i = false) (e : exec i s = .next t) : t.prng = s.prng := by
  cases i with
  | rnext | fx2 | fx3 | fx4 | greset | gcatch | ginit | gpoll => cases hi
  | sendbit b => cases e; rw [State.sendBit_eq]
  | sendbyte v => cases e; rw [State.sendByte_eq]
  | sendcolor r g b => cases e; rw [State.sendColor_eq]
  | showFrame => exact showStrip_prng e
  | hue2rgb h l | hue2rgbl h => exact putColour_prng e
  | pxset p h l => exact storePixel_prng e
  | fill h l => exact fillStrip_prng e
  | fx1 => exact execFx1_prng e
  | fx5 => exact execFx5_prng e
  | fx6 => exact (showStrip_prng (s := s.rotateStrip) e).trans (State.rotateStrip_prng s)
  | fx7 => exact execFx7_prng e
  | atick => exact execAtick_prng e
  | gstep => exact gameStep_prng e
  | grender => exact renderGame_prng e
  | latch => exact waitDelay_prng State.latchGap_prng (unlessCritical_next e).2
  | delayus n | delayms n => exact waitDelay_prng (State.elapse_prng _) (unlessCritical_next e).2
  | wfe => exact execWfe_prng e
  | armwake n => exact execArmwake_prng e
  | irqon => exact execIrqon_prng e
  | waitrel => exact execWaitrel_prng e
  | pxget | fade | clear | rotate | fx0 | anext | rdcnt | rdbtn | irqoff | pincfg => cases e; rfl

end

/-! ### The operations that update S -/

/-- S of `t` is S of `s` after some number of updates. -/
def PrngAdvanced (s t : State) : Prop := ∃ k, t.prng = prngUpd^[k] s.prng

section
variable {s t u : State}

theorem PrngAdvanced.of_eq (h : t.prng = s.prng) : PrngAdvanced s t := ⟨0, h⟩

theorem PrngAdvanced.trans (h : PrngAdvanced s t) (g : PrngAdvanced t u) : PrngAdvanced s u := by
  obtain ⟨k, hk⟩ := h
  obtain ⟨j, hj⟩ := g
  exact ⟨j + k, by rw [hj, hk, Function.iterate_add_apply]⟩

theorem prngNext_advanced {m : Nat} (e : prngNext m s = .next t) : PrngAdvanced s t := by
  obtain ⟨-, rfl⟩ := prngNext_next e
  exact ⟨1, rfl⟩

theorem scatter_advanced (k : Nat) (e : scatter k s = .next t) : PrngAdvanced s t := by
  induction k generalizing s with
  | zero => cases e; exact .of_eq rfl
  | succ k ih =>
    obtain ⟨s1, e1, e⟩ := andThen_eq_next.1 e
    obtain ⟨s2, e2, e⟩ := andThen_eq_next.1 e
    obtain ⟨s3, e3, e⟩ := andThen_eq_next.1 e
    exact (((prngNext_advanced e1).trans (prngNext_advanced e2)).trans (.of_eq (storePixel_prng e3))).trans (ih e)

/-- A loop only updates S when its body does. -/
theorem forEach_advanced {f : Nat → State → Result} (hf : ∀ p u v, f p u = .next v → PrngAdvanced u v)
    {ps : List Nat} (e : forEach f ps s = .next t) : PrngAdvanced s t := by
  induction ps generalizing s with
  | nil => cases e; exact .of_eq rfl
  | cons p ps ih =>
    obtain ⟨u, hu, e⟩ := andThen_eq_next.1 e
    exact (hf p s u hu).trans (ih e)

theorem randomPixel_advanced {p : Nat} (e : randomPixel p s = .next t) : PrngAdvanced s t := by
  obtain ⟨u, e1, e2⟩ := andThen_eq_next.1 e
  exact (prngNext_advanced e1).trans (.of_eq (storePixel_prng e2))

theorem driftPixel_advanced {p : Nat} (e : driftPixel p s = .next t) : PrngAdvanced s t := by
  obtain ⟨u, e1, e2⟩ := andThen_eq_next.1 e
  cases e2
  have hcall : PrngAdvanced s u := prngNext_advanced e1
  exact hcall

theorem execFx2_advanced (e : execFx2 s = .next t) : PrngAdvanced s t := by
  obtain ⟨s1, e1, e⟩ := andThen_eq_next.1 e
  obtain ⟨s2, e2, e⟩ := andThen_eq_next.1 e
  have hcount : PrngAdvanced s.fadeStrip s1 := prngNext_advanced e1
  exact (hcount.trans (scatter_advanced _ e2)).trans (.of_eq (showStrip_prng e))

theorem execFx3_advanced (e : execFx3 s = .next t) : PrngAdvanced s t := by
  obtain ⟨s1, e1, e⟩ := andThen_eq_next.1 e
  obtain ⟨s2, e2, e⟩ := andThen_eq_next.1 e
  cases e
  have hframe := showStrip_prng e2
  exact (forEach_advanced (fun _ _ _ => randomPixel_advanced) e1).trans (.of_eq hframe)

theorem execFx4_advanced (e : execFx4 s = .next t) : PrngAdvanced s t := by
  obtain ⟨s1, e1, e⟩ := andThen_eq_next.1 e
  exact (forEach_advanced (fun _ _ _ => driftPixel_advanced) e1).trans (.of_eq (showStrip_prng e))

theorem gameReset_advanced (e : s.gameReset = .next t) : PrngAdvanced s t := by
  obtain ⟨s1, e1, e⟩ := andThen_eq_next.1 e
  have hdraw := renderGame_prng e
  exact (prngNext_advanced e1).trans (.of_eq hdraw)

theorem gameCatch_advanced (e : s.gameCatch = .next t) : PrngAdvanced s t := by
  obtain ⟨s1, e1, e⟩ := andThen_eq_next.1 e
  have hdraw := renderGame_prng e
  exact (prngNext_advanced e1).trans (.of_eq hdraw)

theorem pollTime_advanced (e : s.pollTime = .next t) : PrngAdvanced s t := by
  unfold State.pollTime at e
  split at e
  · split at e
    · exact gameReset_advanced e
    · exact .of_eq (gameStep_prng e)
  · cases e
    exact .of_eq rfl

theorem pollButton_advanced (e : s.pollButton = .next t) : PrngAdvanced s t := by
  unfold State.pollButton at e
  split at e
  · split at e
    · exact gameCatch_advanced e
    · exact gameReset_advanced e
  · cases e
    exact .of_eq rfl

theorem execGpoll_advanced (e : execGpoll s = .next t) : PrngAdvanced s t := by
  obtain ⟨s1, e1, e⟩ := andThen_eq_next.1 e
  have htime : PrngAdvanced s.sampleCounter s1 := pollTime_advanced e1
  have hsample : s1.envInside.sampleButton.prng = s1.prng := s1.envInside_moved.prng
  exact (htime.trans (.of_eq hsample)).trans (pollButton_advanced e)

theorem execGinit_advanced (e : execGinit s = .next t) : PrngAdvanced s t := by
  have hreset := gameReset_advanced e
  exact hreset

/-- Every operation leaves S after some number of updates, 0 for those that do not call the generator (R245). -/
theorem exec_prngAdvanced {i : Instr} (e : exec i s = .next t) : PrngAdvanced s t := by
  cases hi : callsPrng i with
  | false => exact .of_eq (exec_prng_kept hi e)
  | true =>
    cases i with
    | rnext m => exact prngNext_advanced e
    | fx2 => exact execFx2_advanced e
    | fx3 => exact execFx3_advanced e
    | fx4 => exact execFx4_advanced e
    | greset => exact gameReset_advanced e
    | gcatch => exact gameCatch_advanced e
    | ginit => exact execGinit_advanced e
    | gpoll => exact execGpoll_advanced e
    | _ => cases hi

end

/-- Settles O36: the five writers of AST, and the callers of the generator. -/
theorem astAndSHaveTheirWriters : Obligations.AstAndSHaveTheirWriters := by
  intro i s t e
  refine ⟨?_, ?_, ?_, ?_, ?_, fun hi => exec_ast_kept hi e, exec_prngAdvanced e, fun hne => ?_⟩
  · rintro rfl
    exact execFx0_ast e
  · rintro rfl
    exact execFx3_ast e
  · rintro rfl
    exact execFx5_ast e
  · rintro rfl
    cases e
    exact s.advanceAst_ast
  · rintro rfl
    exact execAtick_ast e
  · cases hi : callsPrng i with
    | false => exact absurd (exec_prng_kept hi e) hne
    | true => exact eq_rnext_or_mem_of_callsPrng hi

end Sys2Proof.Machine
end

section
/-! PROOFS. The GameEngine (44_game.md R216 to R225): the deadline test, the picture and the one frame of it that every
operation draws, and the poll. -/

namespace Sys2Proof.Machine

/-! ### The deadline test (R216) -/

theorem reached_iff (t d : Word) : reached t d = true ↔ (t - d).toNat < 2 ^ 31 := decide_eq_true_iff

/-- Settles O38: bit 31 of the difference is its sign, and the difference of `d + k` and `d` is `k`, whatever wraps. -/
theorem deadlineTestIsWrapSafe : Obligations.DeadlineTestIsWrapSafe := by
  refine ⟨fun t d => ?_, fun d k hk => ?_, by decide, by decide, by decide⟩
  · have hlt := (t - d).isLt
    rw [reached_iff, BitVec.toInt_eq_toNat_cond]
    split <;> omega
  · rw [reached_iff, add_sub_cancel_left, BitVec.toNat_ofNat, Nat.mod_eq_of_lt hk]

/-! ### The picture and its frame (R221, R225) -/

/-- The state whose frame GRENDER sends: the deer is drawn over the hunter. -/
def State.gamePicture (s : State) : State :=
  (s.clearStrip.putEntry s.hunter.toNat (mkEntry greenHue fullLevel)).putEntry s.deer.toNat (mkEntry redHue fullLevel)

/-- GRENDER is the frame of the game's picture. -/
theorem renderGame_eq {s : State} (h : RegistersInRange s) :
    s.renderGame = s.gamePicture.showStrip ∧ RegistersInRange s.gamePicture := by
  have hclear : RegistersInRange s.clearStrip := (clearStrip_ran (k := .shared)).ranges h
  have hhunter := State.storePixel_full_of_lt (h := greenHue) (by decide) hclear.hunter
  have hgreen : RegistersInRange _ := (storePixel_ran (k := .shared) hhunter).ranges hclear
  have hdeer := State.storePixel_full_of_lt (h := redHue) (by decide) hgreen.deer
  refine ⟨?_, (storePixel_ran (k := .shared) hdeer).ranges hgreen⟩
  calc s.renderGame
      = andThen (s.clearStrip.storePixel s.clearStrip.hunter.toNat greenHue fullLevel) fun s1 =>
          andThen (s1.storePixel s1.deer.toNat redHue fullLevel) State.showStrip := rfl
    _ = s.gamePicture.showStrip := by rw [hhunter, andThen_next, hdeer, andThen_next]; rfl

theorem State.read_gamePicture {s : State} (hwf : s.strip.wf) {p : Nat} (hp : p < s.par.n) :
    s.gamePicture.strip.read p =
      if p = s.deer.toNat then mkEntry 0 6
      else if p = s.hunter.toNat then mkEntry 64 6
      else withLevel 0 (s.strip.read p) := by
  have hcleared : s.clearStrip.strip.wf := Memory.wf_mapFirst hwf _ _
  have hoff : s.clearStrip.strip.read p = withLevel 0 (s.strip.read p) := by
    rw [State.clearStrip_strip, Memory.read_mapFirst_of_lt hwf hp]
  rw [← hoff]
  refine (Memory.read_write (Memory.wf_write hcleared _ _) _ _ p).trans (if_congr Iff.rfl rfl ?_)
  exact Memory.read_write hcleared _ _ p

/-- Between `s` and `t` exactly one frame was sent, of the game's picture with the hunter and the deer of `t`. -/
structure PictureSent (s t : State) : Prop where
  drawn : GameDrawn s t
  frame : FrameSent s t

/-- Writes of the game's registers, the generator and the sample, and then GRENDER: the one frame of the whole
operation. -/
theorem renderGame_after {s u : State} (h : RegistersInRange u)
    (hu : u = { s with
      prng := u.prng, rv := u.rv, hunter := u.hunter, deer := u.deer, dir := u.dir, speed := u.speed
      deadline := u.deadline, tnow := u.tnow }) :
    ∃ t, u.renderGame = .next t ∧ PictureSent s t ∧
      t = { u with strip := t.strip, stat := t.stat, rgb := t.rgb, line := t.line } := by
  obtain ⟨hrender, hpicture⟩ := renderGame_eq h
  obtain ⟨t, ht, hframe, heq⟩ := State.showStrip_after (s := s) hpicture (by rw [hu]; rfl) (by rw [hu]; rfl)
    (by rw [hu]; rfl) (by rw [hu]; rfl)
  have hstrip : t.strip = u.gamePicture.strip := by rw [heq]
  have hhunter : t.hunter = u.hunter := by rw [heq]; rfl
  have hdeer : t.deer = u.deer := by rw [heq]; rfl
  have hpar : u.par = s.par := by rw [hu]
  have hkept : u.strip = s.strip := by rw [hu]
  refine ⟨t, hrender.trans ht, ⟨fun p hp => ?_, hframe⟩, by rw [heq]; rfl⟩
  rw [hstrip, hhunter, hdeer, ← hkept]
  exact State.read_gamePicture h.wf (hpar ▸ hp)

/-- Settles O39: the picture, and the frame. -/
theorem grenderDrawsTheGame : Obligations.GrenderDrawsTheGame := by
  intro s hs
  obtain ⟨t, ht, hsent, heq⟩ := renderGame_after hs.registers rfl
  exact ⟨t, ht, hsent.drawn, hsent.frame, heq⟩

/-! ### The deer's placement (R217, R220) -/

/-- The generator's next value below 8, the deer placed by it, the direction flipped, and SPEED written: the common
part of GRESET and GCATCH. -/
def State.relocated (v : Word) (s : State) : State :=
  { s with
    prng := prngUpd s.prng
    rv := BitVec.ofNat 32 ((prngUpd s.prng).toNat % 8)
    deer := BitVec.ofNat 8 (s.wrap (s.hunter.toNat + 4 + (prngUpd s.prng).toNat % 8))
    dir := 1 - s.dir
    speed := v }

theorem gameReset_eq (s : State) : s.gameReset = (s.relocated s.par.s0).renderGame := by
  rw [State.gameReset, prngNext_eq (by decide), andThen_next, rv_toNat]
  rfl

theorem gameCatch_eq (s : State) : s.gameCatch = (s.relocated (speedAfterCatch s.par s.speed)).renderGame := by
  rw [State.gameCatch, prngNext_eq (by decide), andThen_next, rv_toNat]
  rfl

theorem RegistersInRange.relocated {s : State} (h : RegistersInRange s) (v : Word) :
    RegistersInRange (s.relocated v) :=
  { h with deer := ofNat8_mod_lt h.legal.1 _ }

/-- All that GRESET and GCATCH do, with the speed `v` that they leave. -/
structure Relocated (v : Word) (s t : State) : Prop where
  prng : t.prng = prngUpd s.prng
  rv : t.rv.toNat = t.prng.toNat % 8
  deer : t.deer.toNat = (s.hunter.toNat + 4 + t.rv.toNat) % s.par.n
  dir : t.dir ≠ s.dir
  speed : t.speed = v
  sent : PictureSent s t
  frame : t = { s with
    prng := t.prng, rv := t.rv, deer := t.deer, dir := t.dir, speed := t.speed
    strip := t.strip, stat := t.stat, rgb := t.rgb, line := t.line }

/-- Flipping DIR changes it (R217). -/
theorem one_sub_ne (d : BitVec 1) : 1 - d ≠ d := by
  revert d
  decide

theorem renderGame_relocated {s : State} (h : RegistersInRange s) (v : Word) :
    ∃ t, (s.relocated v).renderGame = .next t ∧ Relocated v s t := by
  obtain ⟨t, ht, hsent, heq⟩ := renderGame_after (s := s) (h.relocated v) rfl
  have hn := h.legal.1
  have hprng : t.prng = prngUpd s.prng := by rw [heq]; rfl
  have hrv : t.rv.toNat = (prngUpd s.prng).toNat % 8 := by rw [heq]; exact rv_toNat _ _
  have hdeer : t.deer = BitVec.ofNat 8 (s.wrap (s.hunter.toNat + 4 + (prngUpd s.prng).toNat % 8)) := by rw [heq]; rfl
  have hdir : t.dir = 1 - s.dir := by rw [heq]; rfl
  have hlt : s.wrap (s.hunter.toNat + 4 + (prngUpd s.prng).toNat % 8) < s.par.n := State.wrap_lt hn.1 _
  refine ⟨t, ht, hprng, by rw [hrv, hprng], ?_, ?_, by rw [heq]; rfl, hsent, by rw [heq]; rfl⟩
  · rw [hdeer, hrv, ofNat8_toNat_of_lt (by omega), State.wrap]
  · rw [hdir]
    exact one_sub_ne s.dir

theorem gameReset_relocated {s : State} (h : RegistersInRange s) :
    ∃ t, s.gameReset = .next t ∧ Relocated s.par.s0 s t := by
  rw [gameReset_eq]
  exact renderGame_relocated h _

theorem gameCatch_relocated {s : State} (h : RegistersInRange s) :
    ∃ t, s.gameCatch = .next t ∧ Relocated (speedAfterCatch s.par s.speed) s t := by
  rw [gameCatch_eq]
  exact renderGame_relocated h _

/-- Settles O40: the placement with the start speed. -/
theorem gresetPlacesTheDeer : Obligations.GresetPlacesTheDeer := by
  intro s hs
  obtain ⟨t, ht, h⟩ := gameReset_relocated hs.registers
  exact ⟨t, ht, h.prng, h.rv, h.deer, h.dir, h.speed, h.sent.drawn, h.sent.frame, h.frame⟩

/-- The state in which GINIT resets the game: the sample, and the first deadline (R218). -/
def State.deadlineStarted (s : State) : State :=
  { s.sampleCounter with deadline := s.env.cnt + s.par.s0 }

/-- Settles O41: GRESET after two writes, which it keeps. -/
theorem ginitStartsTheGame : Obligations.GinitStartsTheGame := by
  intro s hs
  have hstarted : RegistersInRange s.deadlineStarted := { hs.registers with }
  obtain ⟨t, ht, h⟩ := gameReset_relocated hstarted
  have htnow : t.tnow = s.env.cnt := by rw [h.frame]; rfl
  have hdeadline : t.deadline = s.env.cnt + s.par.s0 := by rw [h.frame]; rfl
  refine ⟨t, ht, htnow, ?_, h.prng, h.rv, h.deer, h.dir, h.speed, h.sent.drawn, h.sent.frame, by rw [h.frame]; rfl⟩
  rw [hdeadline, BitVec.toNat_add]

/-- The decrement of SPEED when there is no underflow (R220). -/
theorem toNat_speedAfterCatch_of_le {p : Config.Params} {v : Word} (h : p.speedDec.toNat ≤ v.toNat) :
    (speedAfterCatch p v).toNat = v.toNat - p.speedDec.toNat := by
  rw [speedAfterCatch, if_pos h]
  exact BitVec.toNat_sub_of_le h

/-- The decrement of SPEED below SPEED_DEC, where it wraps (R224). -/
theorem toNat_speedAfterCatch_of_lt {p : Config.Params} {v : Word} (h : v.toNat < p.speedDec.toNat)
    (hw : p.underflow = .wraps) : (speedAfterCatch p v).toNat = v.toNat + 2 ^ 32 - p.speedDec.toNat := by
  rw [speedAfterCatch, if_neg (Nat.not_le.2 h), hw]
  bv_omega

/-- Settles O43: the placement with the speed after a catch. -/
theorem gcatchSpeedsUpTheGame : Obligations.GcatchSpeedsUpTheGame := by
  intro s hs
  obtain ⟨t, ht, h⟩ := gameCatch_relocated hs.registers
  refine ⟨t, ht, h.prng, h.rv, h.deer, h.dir, fun hle => ?_, fun hlt hw => ?_, h.sent.drawn, h.sent.frame, h.frame⟩
  · rw [h.speed, toNat_speedAfterCatch_of_le hle]
  · rw [h.speed, toNat_speedAfterCatch_of_lt hlt hw]

/-! ### The hunter's step (R219) -/

theorem toNat_stepHunter {n : Nat} (hn : 1 ≤ n ∧ n ≤ 255) (d : BitVec 1) (h : Byte) :
    (stepHunter n d h).toNat = (h.toNat + if d = 0 then 1 else n - 1) % n := by
  have hlt := Nat.mod_lt (h.toNat + if d = 0 then 1 else n - 1) hn.1
  rw [stepHunter, ofNat8_toNat_of_lt (by omega)]

/-- The state whose picture GSTEP draws: the hunter one step on, and the next deadline. -/
def State.hunterStepped (s : State) : State :=
  { s with hunter := stepHunter s.par.n s.dir s.hunter, deadline := s.tnow + s.speed }

/-- GSTEP is two writes, and the frame. -/
theorem gameStep_sent {s : State} (h : RegistersInRange s) :
    ∃ t, s.gameStep = .next t ∧ PictureSent s t ∧
      t = { s.hunterStepped with strip := t.strip, stat := t.stat, rgb := t.rgb, line := t.line } := by
  have hstepped : RegistersInRange s.hunterStepped := { h with hunter := ofNat8_mod_lt h.legal.1 _ }
  exact renderGame_after hstepped rfl

/-- Settles O42: the two writes read as numbers. -/
theorem gstepMovesTheHunter : Obligations.GstepMovesTheHunter := by
  intro s hs
  have hn := hs.registers.legal.1
  obtain ⟨t, ht, hsent, heq⟩ := gameStep_sent hs.registers
  have hhunter : t.hunter = stepHunter s.par.n s.dir s.hunter := by rw [heq]; rfl
  have hdeadline : t.deadline = s.tnow + s.speed := by rw [heq]; rfl
  refine ⟨t, ht, fun hd => ?_, fun hd => ?_, ?_, hsent.drawn, hsent.frame, by rw [heq]; rfl⟩
  · rw [hhunter, toNat_stepHunter hn, if_pos hd]
  · rw [hhunter, toNat_stepHunter hn, hd, if_neg (by decide), Nat.add_sub_assoc hn.1]
  · rw [hdeadline, BitVec.toNat_add]

/-! ### The poll (R222) -/

section
variable {s : State}

theorem pollTime_of_not_reached (h : reached s.tnow s.deadline = false) : s.pollTime = .next s :=
  if_neg (Bool.not_eq_true _ ▸ h)

theorem pollTime_of_missed (h : reached s.tnow s.deadline = true) (hd : s.hunter = s.deer) :
    s.pollTime = s.gameReset := (if_pos h).trans (if_pos hd)

theorem pollTime_of_due (h : reached s.tnow s.deadline = true) (hd : s.hunter ≠ s.deer) :
    s.pollTime = s.gameStep := (if_pos h).trans (if_neg hd)

theorem pollButton_of_not_pressed (h : s.bs = false) : s.pollButton = .next s := if_neg (Bool.not_eq_true _ ▸ h)

theorem pollButton_of_caught (h : s.bs = true) (hd : s.hunter = s.deer) : s.pollButton = s.gameCatch :=
  (if_pos h).trans (if_pos hd)

theorem pollButton_of_false_start (h : s.bs = true) (hd : s.hunter ≠ s.deer) : s.pollButton = s.gameReset :=
  (if_pos h).trans (if_neg hd)

theorem pollTime_completes (h : RegistersInRange s) : ∃ t, s.pollTime = .next t := by
  cases hr : reached s.tnow s.deadline with
  | false => exact ⟨s, pollTime_of_not_reached hr⟩
  | true =>
    by_cases hd : s.hunter = s.deer
    · obtain ⟨t, ht, -⟩ := gameReset_relocated h
      exact ⟨t, (pollTime_of_missed hr hd).trans ht⟩
    · obtain ⟨t, ht, -⟩ := gameStep_sent h
      exact ⟨t, (pollTime_of_due hr hd).trans ht⟩

theorem pollButton_completes (h : RegistersInRange s) : ∃ t, s.pollButton = .next t := by
  cases hb : s.bs with
  | false => exact ⟨s, pollButton_of_not_pressed hb⟩
  | true =>
    by_cases hd : s.hunter = s.deer
    · obtain ⟨t, ht, -⟩ := gameCatch_relocated h
      exact ⟨t, (pollButton_of_caught hb hd).trans ht⟩
    · obtain ⟨t, ht, -⟩ := gameReset_relocated h
      exact ⟨t, (pollButton_of_false_start hb hd).trans ht⟩

/-- From a state in range both tests of a poll complete, the second on what the environment and the button sample make
of the state after the first. -/
theorem execGpoll_completes (h : RegistersInRange s) :
    ∃ u t, execGpoll s = .next t ∧ s.sampleCounter.pollTime = .next u ∧
      u.envInside.sampleButton.pollButton = .next t := by
  have hcounter : RegistersInRange s.sampleCounter := (sampleCounter_ran (k := .game)).ranges h
  obtain ⟨u, hu⟩ := pollTime_completes hcounter
  have hsample : Ran .game u u.envInside.sampleButton := u.envInside_moved.ran.trans sampleButton_ran
  obtain ⟨t, ht⟩ := pollButton_completes (hsample.ranges ((pollTime_ran hu).ranges hcounter))
  exact ⟨u, t, by rw [execGpoll, hu, andThen_next, ht], hu, ht⟩

end

/-- Settles O44: the two tests branch by branch, the second on the state that RDBTN leaves. -/
theorem gpollRunsOnePoll : Obligations.GpollRunsOnePoll := by
  intro s hs
  obtain ⟨u, t, hexec, htime, hbutton⟩ := execGpoll_completes hs.registers
  refine ⟨u, t, hexec, ⟨fun hr => ?_, fun hr hd => ?_, fun hr hd => ?_⟩, fun hup => ?_, fun hdown => ?_⟩
  · rw [pollTime_of_not_reached hr] at htime
    cases htime
    rfl
  · exact (pollTime_of_missed (s := s.sampleCounter) hr hd).symm.trans htime
  · exact (pollTime_of_due (s := s.sampleCounter) hr hd).symm.trans htime
  · have hbs : u.envInside.sampleButton.bs = false := by simp [hup]
    exact (pollButton_of_not_pressed hbs).symm.trans hbutton
  · have hbs : u.envInside.sampleButton.bs = true := by simp [hdown]
    exact ⟨_, rfl, fun hd => (pollButton_of_caught hbs hd).symm.trans hbutton,
      fun hd => (pollButton_of_false_start hbs hd).symm.trans hbutton⟩

end Sys2Proof.Machine
end

section
/-! PROOFS. The generator (45_prng.md R246 to R248): its update bit by bit, and RNEXT. -/

namespace Sys2Proof.Machine

/-! ### The update (R246) -/

/-- The mixed bits of the update have the low half to themselves: the truncated shifts leave nothing above it. -/
theorem getLsbD_mixedBits (s : Word) (i : Nat) :
    (((s <<< 1) ^^^ (s <<< 2)) >>> 16).getLsbD i = (decide (i < 16) && (s.getLsbD (i + 15) ^^ s.getLsbD (i + 14))) := by
  have hone : 16 + i - 1 = i + 15 := by omega
  have htwo : 16 + i - 2 = i + 14 := by omega
  have hfits : 16 + i < 32 ↔ i < 16 := by omega
  have hnotOne : ¬ 16 + i < 1 := by omega
  have hnotTwo : ¬ 16 + i < 2 := by omega
  rw [BitVec.getLsbD_ushiftRight, BitVec.getLsbD_xor, BitVec.getLsbD_shiftLeft, BitVec.getLsbD_shiftLeft, hone, htwo]
  by_cases hi : i < 16
  · simp only [hfits, hi, hnotOne, hnotTwo, decide_true, decide_false, Bool.not_false, Bool.true_and]
  · simp only [hfits, hi, decide_false, Bool.false_and, Bool.xor_false]

theorem mixedBits_lt (s : Word) : (((s <<< 1) ^^^ (s <<< 2)) >>> 16).toNat < 2 ^ 16 := by
  rw [BitVec.toNat_ushiftRight, Nat.shiftRight_eq_div_pow]
  exact Nat.div_lt_of_lt_mul (BitVec.isLt _)

theorem getLsbD_prngUpd_low (s : Word) {j : Nat} (hj : j < 16) :
    (prngUpd s).getLsbD j = (s.getLsbD (j + 15) ^^ s.getLsbD (j + 14)) := by
  rw [prngUpd, BitVec.getLsbD_or, getLsbD_mixedBits, BitVec.getLsbD_shiftLeft]
  simp [hj]

theorem getLsbD_prngUpd_high (s : Word) {j : Nat} (hj : j < 16) :
    (prngUpd s).getLsbD (j + 16) = s.getLsbD j := by
  have hlt : j + 16 < 32 := by omega
  rw [prngUpd, BitVec.getLsbD_or, getLsbD_mixedBits, BitVec.getLsbD_shiftLeft]
  simp [hlt]

theorem getLsbD_flipTop (s : Word) {j : Nat} (hj : j < 31) : (s ^^^ 0x80000000).getLsbD j = s.getLsbD j := by
  have htop : (0x80000000 : Word) = BitVec.twoPow 32 31 := rfl
  have hne : 31 ≠ j := by omega
  rw [htop, BitVec.getLsbD_xor, BitVec.getLsbD_twoPow]
  simp [hne]

/-- Bit 31 of the state is not used (R248): each bit of the update reads bits below it. -/
theorem prngUpd_flipTop (s : Word) : prngUpd (s ^^^ 0x80000000) = prngUpd s := by
  refine BitVec.eq_of_getLsbD_eq fun i hi => ?_
  by_cases hlow : i < 16
  · rw [getLsbD_prngUpd_low _ hlow, getLsbD_prngUpd_low _ hlow, getLsbD_flipTop s (by omega),
      getLsbD_flipTop s (by omega)]
  · obtain ⟨j, rfl⟩ : ∃ j, i = j + 16 := ⟨i - 16, by omega⟩
    have hj : j < 16 := by omega
    rw [getLsbD_prngUpd_high _ hj, getLsbD_prngUpd_high _ hj, getLsbD_flipTop s (by omega)]

/-- Settles O24: the two halves of the update bit by bit, from which bit 31 drops out. -/
theorem prngUpdateBits : Obligations.PrngUpdateBits :=
  ⟨fun _ => rfl, fun s => Nat.le_of_lt_succ (mixedBits_lt s), fun s _ hj => getLsbD_prngUpd_high s hj,
    fun s _ hj => getLsbD_prngUpd_low s hj, prngUpd_flipTop, by decide, by decide, by decide⟩

/-! ### RNEXT (R247) -/

/-- RNEXT is one call of the generator, which completes for every bound but 0. -/
theorem exec_rnext_eq_next {m : BitVec 24} (hm : m.toNat ≠ 0) (s : State) :
    exec (.rnext m) s =
      .next { s with prng := prngUpd s.prng, rv := BitVec.ofNat 32 ((prngUpd s.prng).toNat % m.toNat) } :=
  prngNext_eq hm s

/-- Settles O25: the one call of the generator, whose value is a remainder and fits RV. -/
theorem rnextUpdatesThenReduces : Obligations.RnextUpdatesThenReduces := by
  intro m s hm
  have hm0 : m.toNat ≠ 0 := BitVec.toNat_ne.1 hm
  have hrv := rv_toNat (prngUpd s.prng) m.toNat
  refine ⟨_, exec_rnext_eq_next hm0 s, rfl, hrv, ?_, rfl⟩
  exact hrv.trans_lt (Nat.mod_lt _ (Nat.pos_of_ne_zero hm0))

end Sys2Proof.Machine
end

section
/-! PROOFS. The waits and the critical section (40_transmitter.md R137, 46_system.md R259 to R265): an operation that does
not wait leaves what CORE waits for, and none but IRQOFF opens the critical section. -/

namespace Sys2Proof.Machine

/-- From `s` to `t` no wait began or ended, and a closed critical section stayed closed. -/
structure NoWait (s t : State) : Prop where
  hold : t.hold = s.hold
  im : s.im = false → t.im = false

/-! ### The parts of the operations -/

section
variable {s t u : State}

theorem NoWait.of_stat (hhold : t.hold = s.hold) (hstat : t.stat = s.stat) : NoWait s t :=
  ⟨hhold, fun him => by rwa [State.im, hstat]⟩

theorem NoWait.refl (s : State) : NoWait s s := .of_stat rfl rfl

theorem NoWait.trans (h : NoWait s t) (g : NoWait t u) : NoWait s u := ⟨g.hold.trans h.hold, g.im ∘ h.im⟩

theorem storePixel_noWait {i : Nat} {h : Byte} {l : Level} (e : s.storePixel i h l = .next t) : NoWait s t := by
  obtain ⟨-, -, rfl⟩ := State.storePixel_next e
  exact .of_stat rfl rfl

theorem fillStrip_noWait {h : Byte} {l : Level} (e : s.fillStrip h l = .next t) : NoWait s t := by
  obtain ⟨-, -, rfl⟩ := State.fillStrip_next e
  exact .of_stat rfl rfl

theorem prngNext_noWait {m : Nat} (e : prngNext m s = .next t) : NoWait s t := by
  obtain ⟨-, rfl⟩ := prngNext_next e
  exact .of_stat rfl rfl

theorem putColour_noWait {c : Except Refusal Rgb} (e : s.putColour c = .next t) : NoWait s t := by
  rw [(State.putColour_next e).2]
  exact .of_stat rfl rfl

/-- The three senders leave STAT as it was, but for DOUT. -/
theorem NoWait.of_dropDout (hhold : t.hold = s.hold) (hstat : t.stat = dropDout s.stat) : NoWait s t where
  hold := hhold
  im him := by
    rw [State.im, hstat, dropDout, getLsbD_setBit8 _ _ (by decide)]
    exact him

theorem showStrip_noWait (e : s.showStrip = .next t) : NoWait s t := by
  obtain ⟨cs, -, rfl⟩ := State.showStrip_next e
  exact ⟨by rw [State.sendFrame_frame], fun _ => by simp [State.sendFrame]⟩

theorem sampleButton_noWait (s : State) : NoWait s s.sampleButton := ⟨rfl, (s.sampleButton_im).trans⟩

theorem EnvMoved.noWait (h : EnvMoved s t) : NoWait s t := ⟨by rw [h.eq], (h.stat_bit (by decide)).trans⟩

/-- A loop begins no wait when its body begins none. -/
theorem forEach_noWait {f : Nat → State → Result} (hf : ∀ p u v, f p u = .next v → NoWait u v) {ps : List Nat}
    (e : forEach f ps s = .next t) : NoWait s t := by
  induction ps generalizing s with
  | nil => cases e; exact .refl _
  | cons p ps ih =>
    obtain ⟨u, hu, e⟩ := andThen_eq_next.1 e
    exact (hf p s u hu).trans (ih e)

/-! ### The animation and the game -/

theorem scatter_noWait (k : Nat) (e : scatter k s = .next t) : NoWait s t := by
  induction k generalizing s with
  | zero => cases e; exact .refl _
  | succ k ih =>
    obtain ⟨s1, e1, e⟩ := andThen_eq_next.1 e
    obtain ⟨s2, e2, e⟩ := andThen_eq_next.1 e
    obtain ⟨s3, e3, e⟩ := andThen_eq_next.1 e
    exact (((prngNext_noWait e1).trans (prngNext_noWait e2)).trans (storePixel_noWait e3)).trans (ih e)

theorem randomPixel_noWait {p : Nat} (e : randomPixel p s = .next t) : NoWait s t := by
  obtain ⟨u, e1, e2⟩ := andThen_eq_next.1 e
  exact (prngNext_noWait e1).trans (storePixel_noWait e2)

theorem driftPixel_noWait {p : Nat} (e : driftPixel p s = .next t) : NoWait s t := by
  obtain ⟨u, e1, e2⟩ := andThen_eq_next.1 e
  cases e2
  exact (prngNext_noWait e1).trans (.of_stat rfl rfl)

theorem execFx1_noWait (e : execFx1 s = .next t) : NoWait s t := by
  obtain ⟨s1, e1, e⟩ := andThen_eq_next.1 e
  obtain ⟨s2, e2, e⟩ := andThen_eq_next.1 e
  have hmoved : NoWait s s.fadeStrip.stepComets := .of_stat rfl rfl
  exact ((hmoved.trans (storePixel_noWait e1)).trans (storePixel_noWait e2)).trans (showStrip_noWait e)

theorem execFx2_noWait (e : execFx2 s = .next t) : NoWait s t := by
  obtain ⟨s1, e1, e⟩ := andThen_eq_next.1 e
  obtain ⟨s2, e2, e⟩ := andThen_eq_next.1 e
  have hfaded : NoWait s s.fadeStrip := .of_stat rfl rfl
  exact ((hfaded.trans (prngNext_noWait e1)).trans (scatter_noWait _ e2)).trans (showStrip_noWait e)

theorem execFx3_noWait (e : execFx3 s = .next t) : NoWait s t := by
  obtain ⟨s1, e1, e⟩ := andThen_eq_next.1 e
  obtain ⟨s2, e2, e⟩ := andThen_eq_next.1 e
  cases e
  exact ((forEach_noWait (fun _ _ _ => randomPixel_noWait) e1).trans (showStrip_noWait e2)).trans (.of_stat rfl rfl)

theorem execFx4_noWait (e : execFx4 s = .next t) : NoWait s t := by
  obtain ⟨s1, e1, e⟩ := andThen_eq_next.1 e
  exact (forEach_noWait (fun _ _ _ => driftPixel_noWait) e1).trans (showStrip_noWait e)

theorem execFx5_noWait (e : execFx5 s = .next t) : NoWait s t := by
  obtain ⟨s1, e1, e⟩ := andThen_eq_next.1 e
  obtain ⟨s2, e2, e⟩ := andThen_eq_next.1 e
  cases e
  exact ((forEach_noWait (fun _ _ _ => storePixel_noWait) e1).trans (showStrip_noWait e2)).trans (.of_stat rfl rfl)

theorem execFx6_noWait (e : execFx6 s = .next t) : NoWait s t :=
  have hrotated : NoWait s s.rotateStrip := .of_stat rfl rfl
  hrotated.trans (showStrip_noWait e)

theorem execFx7_noWait (e : execFx7 s = .next t) : NoWait s t := by
  obtain ⟨s1, e1, e⟩ := andThen_eq_next.1 e
  have hhue : NoWait s { s with ghue := BitVec.ofNat 8 ((s.ghue.toNat + 1) % 192) } := .of_stat rfl rfl
  exact (hhue.trans (fillStrip_noWait e1)).trans (showStrip_noWait e)

theorem execAtick_noWait (e : execAtick s = .next t) : NoWait s t := by
  unfold execAtick at e
  split at e <;> cases e <;> exact .of_stat rfl rfl

theorem renderGame_noWait (e : s.renderGame = .next t) : NoWait s t := by
  obtain ⟨s1, e1, e⟩ := andThen_eq_next.1 e
  obtain ⟨s2, e2, e⟩ := andThen_eq_next.1 e
  have hcleared : NoWait s s.clearStrip := .of_stat rfl rfl
  exact ((hcleared.trans (storePixel_noWait e1)).trans (storePixel_noWait e2)).trans (showStrip_noWait e)

theorem gameStep_noWait (e : s.gameStep = .next t) : NoWait s t :=
  have hstepped : NoWait s s.hunterStepped := .of_stat rfl rfl
  hstepped.trans (renderGame_noWait e)

theorem renderGame_relocated_noWait {v : Word} (e : (s.relocated v).renderGame = .next t) : NoWait s t :=
  have hrelocated : NoWait s (s.relocated v) := .of_stat rfl rfl
  hrelocated.trans (renderGame_noWait e)

theorem gameReset_noWait (e : s.gameReset = .next t) : NoWait s t :=
  renderGame_relocated_noWait ((gameReset_eq s).symm.trans e)

theorem gameCatch_noWait (e : s.gameCatch = .next t) : NoWait s t :=
  renderGame_relocated_noWait ((gameCatch_eq s).symm.trans e)

theorem pollTime_noWait (e : s.pollTime = .next t) : NoWait s t := by
  unfold State.pollTime at e
  split at e
  · split at e
    · exact gameReset_noWait e
    · exact gameStep_noWait e
  · cases e
    exact .refl _

theorem pollButton_noWait (e : s.pollButton = .next t) : NoWait s t := by
  unfold State.pollButton at e
  split at e
  · split at e
    · exact gameCatch_noWait e
    · exact gameReset_noWait e
  · cases e
    exact .refl _

theorem execGinit_noWait (e : execGinit s = .next t) : NoWait s t :=
  have hstarted : NoWait s s.deadlineStarted := .of_stat rfl rfl
  hstarted.trans (gameReset_noWait e)

theorem execGpoll_noWait (e : execGpoll s = .next t) : NoWait s t := by
  obtain ⟨s1, e1, e⟩ := andThen_eq_next.1 e
  have hcounter : NoWait s s.sampleCounter := .of_stat rfl rfl
  have hsample := s1.envInside_moved.noWait.trans (sampleButton_noWait _)
  exact ((hcounter.trans (pollTime_noWait e1)).trans hsample).trans (pollButton_noWait e)

/-! ### Every operation -/

theorem execArmwake_noWait {n : BitVec 24} (e : execArmwake n s = .next t) : NoWait s t := by
  unfold execArmwake at e
  split at e <;> cases e
  exact ⟨rfl, (State.setTarm_im _ _).trans⟩

theorem execIrqon_noWait (e : execIrqon s = .next t) : NoWait s t := by
  unfold execIrqon at e
  split at e <;> cases e
  · exact ⟨rfl, fun _ => by simp⟩
  · exact .refl _

/-- An operation that does not wait neither begins nor ends a wait, and none but IRQOFF opens the critical section. -/
theorem exec_noWait {i : Instr} (hw : waits i = false) (hi : i ≠ .irqoff) (e : exec i s = .next t) : NoWait s t := by
  cases i with
  | latch | wfe | waitrel | delayus | delayms => cases hw
  | irqoff => exact absurd rfl hi
  | sendbit b => cases e; exact .of_dropDout (by rw [State.sendBit_eq]) (by rw [State.sendBit_eq])
  | sendbyte v => cases e; exact .of_dropDout (by rw [State.sendByte_eq]) (by rw [State.sendByte_eq])
  | sendcolor r g b => cases e; exact .of_dropDout (by rw [State.sendColor_eq]) (by rw [State.sendColor_eq])
  | showFrame => exact showStrip_noWait e
  | hue2rgb h l | hue2rgbl h => exact putColour_noWait e
  | pxset p h l => exact storePixel_noWait e
  | fill h l => exact fillStrip_noWait e
  | rnext m => exact prngNext_noWait e
  | fx1 => exact execFx1_noWait e
  | fx2 => exact execFx2_noWait e
  | fx3 => exact execFx3_noWait e
  | fx4 => exact execFx4_noWait e
  | fx5 => exact execFx5_noWait e
  | fx6 => exact execFx6_noWait e
  | fx7 => exact execFx7_noWait e
  | atick => exact execAtick_noWait e
  | greset => exact gameReset_noWait e
  | gstep => exact gameStep_noWait e
  | gcatch => exact gameCatch_noWait e
  | grender => exact renderGame_noWait e
  | gpoll => exact execGpoll_noWait e
  | ginit => exact execGinit_noWait e
  | armwake n => exact execArmwake_noWait e
  | rdbtn => cases e; exact sampleButton_noWait s
  | irqon => exact execIrqon_noWait e
  | pincfg => cases e; exact ⟨rfl, fun him => by simpa using him⟩
  | pxget | fade | clear | rotate | fx0 | anext | rdcnt => cases e; exact .of_stat rfl rfl

end

/-! ### The operations that wait, case by case -/

section
variable {s : State} {u : DelayUnit} {n : Nat} {finish : State → State}

theorem State.waitDelay_of_zero (hn : n = 0) : s.waitDelay u n finish = .next (finish (s.setHold .running)) := if_pos hn

theorem State.waitDelay_of_request (hn : n ≠ 0) (hh : s.hold ≠ .delay u n) :
    s.waitDelay u n finish = .next { s with hold := .delay u n, env := { s.env with dlyDone := false } } :=
  (if_neg hn).trans (if_neg hh)

theorem State.waitDelay_of_waiting (hn : n ≠ 0) (hh : s.hold = .delay u n) (hd : s.env.dlyDone = false) :
    s.waitDelay u n finish = .next s :=
  ((if_neg hn).trans (if_pos hh)).trans (if_neg (Bool.not_eq_true _ ▸ hd))

theorem State.waitDelay_of_over (hn : n ≠ 0) (hh : s.hold = .delay u n) (hd : s.env.dlyDone = true) :
    s.waitDelay u n finish = .next (finish { s with hold := .running, env := { s.env with dlyDone := false } }) :=
  ((if_neg hn).trans (if_pos hh)).trans (if_pos hd)

theorem exec_delayus_of_closed (him : s.im = false) (k : BitVec 24) :
    exec (.delayus k) s = s.waitDelay .us k.toNat (State.elapse (1000 * k.toNat)) := unlessCritical_of_not_im him _

theorem exec_delayms_of_closed (him : s.im = false) (k : BitVec 24) :
    exec (.delayms k) s = s.waitDelay .ms k.toNat (State.elapse (1000000 * k.toNat)) := unlessCritical_of_not_im him _

/-- WFE without an event begins its wait, or goes on with it. -/
theorem exec_wfe_of_asleep (him : s.im = false) (hw : s.wake = false) : exec .wfe s = .next (s.setHold .event) :=
  (unlessCritical_of_not_im him _).trans (if_neg (Bool.not_eq_true _ ▸ hw))

/-- WFE with an event takes it. -/
theorem exec_wfe_of_woken (him : s.im = false) (hw : s.wake = true) :
    exec .wfe s = .next (((s.setWake false).setHold .running).elapse 0) :=
  (unlessCritical_of_not_im him _).trans (if_pos hw)

/-- WAITREL with the button pressed begins its wait, or goes on with it. -/
theorem exec_waitrel_of_pressed (him : s.im = false) (hb : s.env.btnN = false) :
    exec .waitrel s = .next (s.sampleButton.setHold .release) :=
  (unlessCritical_of_not_im him _).trans (if_pos (by simp [hb]))

/-- WAITREL with the button released completes. -/
theorem exec_waitrel_of_released (him : s.im = false) (hb : s.env.btnN = true) :
    exec .waitrel s = .next ((s.sampleButton.setHold .running).elapse 0) :=
  (unlessCritical_of_not_im him _).trans (if_neg (by simp [hb]))

theorem waitDelay_stat {t : State} (hf : ∀ v, (finish v).stat = v.stat) (e : s.waitDelay u n finish = .next t) :
    t.stat = s.stat := by
  obtain ⟨-, rfl⟩ | ⟨-, -, -, rfl⟩ | ⟨-, -, -, rfl⟩ | ⟨-, -, rfl⟩ := State.waitDelay_next e
  · exact hf _
  · exact hf _
  · rfl
  · rfl

/-- What waits leaves the critical section as it was: closed. -/
theorem exec_im_of_waits {i : Instr} {t : State} (hw : waits i = true) (him : s.im = false) (e : exec i s = .next t) :
    t.im = false := by
  have hdelay {u : DelayUnit} {n : Nat} {finish : State → State}
      (e : unlessCritical s (s.waitDelay u n finish) = .next t) (hf : ∀ v, (finish v).stat = v.stat) :
      t.im = false := by
    rwa [State.im, waitDelay_stat hf (unlessCritical_next e).2]
  cases i with
  | latch | delayus | delayms => exact hdelay e fun _ => rfl
  | wfe =>
    cases hwake : s.wake with
    | false =>
      rw [exec_wfe_of_asleep him hwake] at e
      cases e
      simpa using him
    | true =>
      rw [exec_wfe_of_woken him hwake] at e
      cases e
      simpa using him
  | waitrel =>
    cases hb : s.env.btnN with
    | false =>
      rw [exec_waitrel_of_pressed him hb] at e
      cases e
      simpa using him
    | true =>
      rw [exec_waitrel_of_released him hb] at e
      cases e
      simpa using him
  | _ => cases hw

/-- None but IRQOFF opens the critical section (46_system.md R263). -/
theorem exec_im {i : Instr} {t : State} (hi : i ≠ .irqoff) (him : s.im = false) (e : exec i s = .next t) :
    t.im = false := by
  cases hw : waits i with
  | false => exact (exec_noWait hw hi e).im him
  | true => exact exec_im_of_waits hw him e

end

end Sys2Proof.Machine
end

section
/-! PROOFS. The sequencer's own programmes (46_system.md R266, R277): each label's next operation is one that completes or
holds, and CORE stays free of a client and outside the critical section. -/

namespace Sys2Proof.Machine

/-- A next state is answered, in which CORE still runs its own programme. -/
def Answers (r : Result) : Prop := ∃ t, r = .next t ∧ t.Autonomous

/-! ### The operations that the labels issue -/

section
variable {s t : State} {i : Instr} {l : Label}

theorem fxOf_ne_irqoff (a : BitVec 3) : fxOf a ≠ .irqoff := by
  intro h
  have hscope := scopeOf_fxOf a
  rw [h] at hscope
  cases hscope

theorem waits_fxOf (a : BitVec 3) : waits (fxOf a) = false := by
  unfold fxOf
  split <;> rfl

theorem exec_wfe_completes (him : s.im = false) : ∃ t, exec .wfe s = .next t := by
  cases hw : s.wake with
  | false => exact ⟨_, exec_wfe_of_asleep him hw⟩
  | true => exact ⟨_, exec_wfe_of_woken him hw⟩

theorem exec_waitrel_completes (him : s.im = false) : ∃ t, exec .waitrel s = .next t := by
  cases hb : s.env.btnN with
  | false => exact ⟨_, exec_waitrel_of_pressed him hb⟩
  | true => exact ⟨_, exec_waitrel_of_released him hb⟩

theorem exec_delayms_completes (him : s.im = false) (n : BitVec 24) : ∃ t, exec (.delayms n) s = .next t := by
  rw [exec_delayms_of_closed him]
  exact State.waitDelay_completes _ _ _ s

theorem exec_armwake_eq_next {n : BitVec 24} (hn : n ≠ 0) (s : State) :
    exec (.armwake n) s = .next (({ s with armMs := some n } : State).setTarm true) := if_neg hn

theorem exec_atick_completes (s : State) : ∃ t, exec .atick s = .next t := by
  by_cases h : s.tcnt.toNat + 1 = s.par.autoTicks
  · exact ⟨_, execAtick_of_last h⟩
  · exact ⟨_, execAtick_of_not_last h⟩

theorem exec_ginit_completes (h : RegistersInRange s) : ∃ t, exec .ginit s = .next t := by
  have hstarted : RegistersInRange s.deadlineStarted := { h with }
  obtain ⟨t, ht, -⟩ := gameReset_relocated hstarted
  exact ⟨t, ht⟩

theorem exec_gpoll_completes (h : RegistersInRange s) : ∃ t, exec .gpoll s = .next t := by
  obtain ⟨u, t, ht, -⟩ := execGpoll_completes h
  exact ⟨t, ht⟩

/-- Parameters in their legal range (00_scope.md R13) have a refresh period. -/
theorem State.InRange.refreshMs_ne_zero (h : s.InRange) : s.par.refreshMs ≠ 0 := by
  obtain ⟨⟨-, -, -, hrefresh, -⟩, -⟩ := h
  exact hrefresh

/-- SEQ in range codes a label (10_state.md R34). -/
theorem State.InRange.seq_le (h : s.InRange) : s.seq.toNat ≤ 10 := by
  obtain ⟨-, -, -, -, -, -, -, -, hseq, -⟩ := h
  exact hseq

/-! ### The moves of a label keep CORE to itself -/

theorem State.Autonomous.goto (h : s.Autonomous) (l : Label) : (s.goto l).Autonomous := by
  simpa [State.Autonomous] using h

theorem State.Autonomous.goPart (h : s.Autonomous) (k : LabelPart) : (s.goPart k).Autonomous := by
  simpa [State.Autonomous] using h

theorem State.Autonomous.takeMode (h : s.Autonomous) : s.takeMode.Autonomous := by simpa [State.Autonomous] using h

theorem Answers.next (h : s.Autonomous) : Answers (.next s) := ⟨s, rfl, h⟩

theorem Answers.andThen {r : Result} {f : State → Result} (h : Answers r) (hf : ∀ t, t.Autonomous → Answers (f t)) :
    Answers (andThen r f) := by
  obtain ⟨t, rfl, ht⟩ := h
  exact hf t ht

/-- Any operation but IRQOFF that completes or holds leaves CORE to itself. -/
theorem exec_answers (i : Instr) (ha : s.Autonomous) (hi : i ≠ .irqoff) (hex : ∃ t, exec i s = .next t) :
    Answers (exec i s) := by
  obtain ⟨t, ht⟩ := hex
  exact ⟨t, ht, (exec_ran ht).pending.trans ha.1, exec_im hi ha.2 ht⟩

theorem issueThen_answers (ha : s.Autonomous) (hi : i ≠ .irqoff) (hex : ∃ t, exec i s = .next t) :
    Answers (issueThen i l s) :=
  (exec_answers i ha hi hex).andThen fun _ ht => .next (ht.goto l)

theorem seqBoot_answers (hs : s.InRange) (ha : s.Autonomous) : Answers (seqBoot s) := by
  unfold seqBoot
  split
  · refine (exec_answers .pincfg ha nofun ⟨_, rfl⟩).andThen fun t ht => .next ?_
    split
    · exact ht.goto _
    · exact ht.goPart _
  · exact (exec_answers .rdbtn ha nofun ⟨_, rfl⟩).andThen fun t ht => .next (ht.takeMode.goPart _)
  · exact issueThen_answers ha nofun ⟨_, exec_armwake_eq_next hs.refreshMs_ne_zero s⟩

theorem seqTick_answers (ha : s.Autonomous) : Answers (seqTick s) := by
  unfold seqTick
  split
  · exact .next (ha.goto _)
  · exact issueThen_answers ha nofun (exec_atick_completes s)

theorem seqBtn_answers (ha : s.Autonomous) : Answers (seqBtn s) := by
  unfold seqBtn
  split
  · split
    · refine (exec_answers .rdbtn ha nofun ⟨_, rfl⟩).andThen fun t ht => .next ?_
      split
      · exact ht.goPart _
      · exact ht.goto _
    · exact .next (ha.goto _)
  · exact issueThen_answers ha nofun ⟨_, rfl⟩
  · exact issueThen_answers ha nofun ⟨_, rfl⟩

/-- No label's operation is refused (46_system.md R266, R277). -/
theorem seqLabel_answers (l : Label) (hs : s.InRange) (ha : s.Autonomous) : Answers (seqLabel l s) := by
  cases l with
  | boot => exact seqBoot_answers hs ha
  | aExec => exact issueThen_answers ha (fxOf_ne_irqoff _) (exec_fxOf_completes s.ast hs.registers)
  | aTick => exact seqTick_answers ha
  | aSleep => exact issueThen_answers ha nofun (exec_wfe_completes ha.2)
  | aBtn => exact seqBtn_answers ha
  | aHold | gHold => exact issueThen_answers ha nofun (exec_waitrel_completes ha.2)
  | aSettle | gSettle => exact issueThen_answers ha nofun (exec_delayms_completes ha.2 _)
  | gInit => exact issueThen_answers ha nofun (exec_ginit_completes hs.registers)
  | gPoll =>
    exact (exec_answers .gpoll ha nofun (exec_gpoll_completes hs.registers)).andThen fun t ht => .next (ht.goto _)

/-! ### The whole step -/

theorem labelOf_labelCode (l : Label) : labelOf (labelCode l) = some l := by cases l <;> rfl

theorem exists_eq_labelCode {c : BitVec 4} (h : c.toNat ≤ 10) : ∃ l, c = labelCode l := by
  have hlabel : (labelOf c).isSome := by
    revert c
    decide
  obtain ⟨l, hl⟩ := Option.isSome_iff_exists.1 hlabel
  exact ⟨l, labelOf_eq_some hl⟩

/-- With no client, CORE's move is that of the label whose code SEQ holds. -/
theorem coreStep_of_labelCode (hp : s.pending = []) (hq : s.seq = labelCode l) : coreStep s = seqLabel l s :=
  coreStep_of_label hp (by rw [hq, labelOf_labelCode])

theorem coreStep_answers (hs : s.InRange) (ha : s.Autonomous) : Answers (coreStep s) := by
  obtain ⟨l, hl⟩ := exists_eq_labelCode hs.seq_le
  rw [coreStep_of_labelCode ha.1 hl]
  exact seqLabel_answers l hs ha

/-- Neither the environment nor the reset pin issues a descriptor or opens the critical section. -/
theorem State.Autonomous.envTurn (h : s.Autonomous) : s.envTurn.Autonomous := by
  obtain hm | ⟨u, -, hu⟩ := s.envTurn_cases
  · exact ⟨(hm.ran (k := .shared)).pending.trans h.1, hm.noWait.im h.2⟩
  · rw [hu]
    exact ⟨rfl, by simp [State.im, State.powerOn, State.resetOf]⟩

end

/-- Settles O59: no label is refused, its move keeps the ranges, and the environment's turn keeps all of it. -/
theorem sequencerIsNeverRefused : Obligations.SequencerIsNeverRefused := by
  intro s hs ha
  obtain ⟨t, ht, hta⟩ := coreStep_answers hs ha
  have hstep : step s = .next t.envTurn := by rw [step, ht, andThen_next]
  exact ⟨_, hstep, (coreStep_inRange hs ht).envTurn, hta.envTurn⟩

end Sys2Proof.Machine
end

section
/-! PROOFS. The system operations (46_system.md R256 to R265): what each writes, what it leaves, and how long it takes. -/

namespace Sys2Proof.Machine

/-! ### One bit of STAT, and low time -/

section
variable {s t u : State}

/-- Writing a bit of STAT leaves the others. -/
theorem State.setStat_statFrame {i : Nat} (hi : i < 8) (b : Bool) (s : State) : statFrame [i] s (s.setStat i b) := by
  intro j hj
  have hne : j ≠ i := by simpa using hj
  exact (getLsbD_setBit8 _ _ hi _ _).trans (if_neg hne)

theorem statFrame.trans {js ks : List Nat} (h : statFrame js s t) (g : statFrame ks t u) :
    statFrame (js ++ ks) s u := by
  intro j hj
  obtain ⟨hjs, hks⟩ : j ∉ js ∧ j ∉ ks := by simpa using hj
  exact (g j hks).trans (h j hjs)

theorem statFrame.mono {js ks : List Nat} (h : statFrame js s t) (hsub : js ⊆ ks) : statFrame ks s t :=
  fun j hj => h j fun hjs => hj (hsub hjs)

/-- Writing a bit of STAT with the value it has changes nothing. -/
theorem State.setStat_of_bit {i : Nat} (hi : i < 8) {b : Bool} (h : s.stat.getLsbD i = b) : s.setStat i b = s := by
  subst h
  show { s with stat := setBit8 s.stat i (s.stat.getLsbD i) } = s
  rw [setBit8_self _ _ hi]

/-- The time that passes with the line low when at least `m` nanoseconds do (40_transmitter.md R130). -/
def State.lowTimeOf (m : Nat) (s : State) : Nat := Config.ns m + Config.freeDuration s.line.draws

theorem State.elapse_segs (m : Nat) (s : State) : (s.elapse m).line.segs = s.lowFor (s.lowTimeOf m) := rfl

/-- Low time after an operation that has written a bit of STAT other than OE is low time after the operation's start. -/
theorem State.elapse_segs_after (m : Nat) (hoe : t.oe = s.oe) (hline : t.line = s.line) :
    (t.elapse m).line.segs = s.lowFor (t.lowTimeOf m) := by
  rw [State.elapse_segs, State.lowFor, State.lowFor, hoe, hline]

end

/-! ### The pins, the mask and the samples -/

theorem exec_pincfg (s : State) : exec .pincfg s = .next ((s.setDout false).setOe true) := rfl

/-- PINCFG on pins that it has driven changes nothing (46_system.md R256). -/
theorem exec_pincfg_of_driven {s : State} (hdout : s.dout = false) (hoe : s.oe = true) : exec .pincfg s = .next s := by
  have hlow : s.setDout false = s := State.setStat_of_bit (by decide) hdout
  have hdriven : s.setOe true = s := State.setStat_of_bit (by decide) hoe
  rw [exec_pincfg, hlow, hdriven]

theorem exec_irqon_of_open {s : State} (him : s.im = true) : exec .irqon s = .next ((s.setIm false).elapse 0) :=
  if_pos him

theorem exec_irqon_of_closed {s : State} (him : s.im = false) : exec .irqon s = .next s :=
  if_neg (Bool.not_eq_true _ ▸ him)

/-- Settles O45: each operation is writes of single bits of STAT, and one more field. -/
theorem pinsMaskAndSamples : Obligations.PinsMaskAndSamples := by
  intro s
  refine ⟨⟨_, exec_pincfg s, by simp, by simp, ?_, rfl, exec_pincfg_of_driven (by simp) (by simp)⟩,
    ⟨_, rfl, State.setIm_im _ _, State.setStat_statFrame (by decide) _ _, rfl⟩, fun him => ?_, exec_irqon_of_closed,
    ⟨_, rfl, State.setBs_bs _ _, State.setStat_statFrame (by decide) _ _, rfl⟩, ⟨_, rfl, rfl, rfl⟩, fun n hn => ?_⟩
  · exact (State.setStat_statFrame (by decide) false s).trans (State.setStat_statFrame (by decide) true _)
  · exact ⟨_, _, exec_irqon_of_open him, by simp, State.setStat_statFrame (i := 1) (by decide) false s,
      State.elapse_segs_after 0 (by simp) rfl, rfl, rfl⟩
  · exact ⟨_, exec_armwake_eq_next hn s, by simp, rfl, State.setStat_statFrame (i := 4) (by decide) true s, rfl⟩

/-! ### The waits -/

/-- A delay of `n` units of `ns` nanoseconds, in each state that it can be in: before its request, while it runs, and when
it is over. -/
theorem waitDelay_lasts (u : DelayUnit) (ns : Nat) (n : BitVec 24) (s : State) :
    let r := s.waitDelay u n.toNat (State.elapse (ns * n.toNat))
    (n ≠ 0 → s.hold ≠ .delay u n.toNat →
      ∃ t, r = .next t ∧ t.portDly = some (u, n) ∧
        t = { s with hold := .delay u n.toNat, env := { s.env with dlyDone := false } }) ∧
    (n ≠ 0 → s.hold = .delay u n.toNat → s.env.dlyDone = false → r = .next s) ∧
    (n ≠ 0 → s.hold = .delay u n.toNat → s.env.dlyDone = true →
      ∃ t d, r = .next t ∧ Config.ns (ns * n.toNat) ≤ d ∧ t.line.segs = s.lowFor d ∧
        t.symbolHistory = s.symbolHistory ∧
        t = { s with line := t.line, hold := .running, env := { s.env with dlyDone := false } }) ∧
    (n = 0 → ∃ t d, r = .next t ∧ t.line.segs = s.lowFor d ∧
      t.symbolHistory = s.symbolHistory ∧ t = { s with line := t.line, hold := .running }) := by
  have hn0 (hn : n ≠ 0) : n.toNat ≠ 0 := BitVec.toNat_ne.1 hn
  refine ⟨fun hn hh => ⟨_, State.waitDelay_of_request (hn0 hn) hh, ?_, rfl⟩,
    fun hn hh hd => State.waitDelay_of_waiting (hn0 hn) hh hd,
    fun hn hh hd => ⟨_, _, State.waitDelay_of_over (hn0 hn) hh hd, Nat.le_add_right _ _, rfl, rfl, rfl⟩,
    fun hn => ⟨_, _, State.waitDelay_of_zero (by simp [hn]), rfl, rfl, rfl⟩⟩
  simp [State.portDly]

/-- Settles O46: both delays are the wait of the delay primitive, each with its unit. -/
theorem delaysLastAtLeastAsLong : Obligations.DelaysLastAtLeastAsLong := by
  intro n s him q hq
  obtain rfl | rfl : q = (.delayus n, .us, 1000) ∨ q = (.delayms n, .ms, 1000000) := by simpa using hq
  · rw [exec_delayus_of_closed him]
    exact waitDelay_lasts .us 1000 n s
  · rw [exec_delayms_of_closed him]
    exact waitDelay_lasts .ms 1000000 n s

/-- Settles O47: the two cases of WFE. -/
theorem wfeWaitsForTheWakeFlag : Obligations.WfeWaitsForTheWakeFlag := fun s him =>
  ⟨exec_wfe_of_asleep him, fun hw =>
    ⟨_, _, exec_wfe_of_woken him hw, by simp, State.setStat_statFrame (i := 0) (by decide) false s,
      State.elapse_segs_after 0 (by simp) rfl, rfl, rfl⟩⟩

/-- Settles O48: the two cases of WAITREL, each after the sample. -/
theorem waitrelWaitsForTheRelease : Obligations.WaitrelWaitsForTheRelease := fun s him =>
  have hsample : statFrame [3] s s.sampleButton := State.setStat_statFrame (by decide) _ s
  ⟨fun hb => ⟨_, exec_waitrel_of_pressed him hb, by simp [hb], hsample, rfl⟩, fun hb =>
    ⟨_, _, exec_waitrel_of_released him hb, by simp [hb], hsample, State.elapse_segs_after 0 (by simp) rfl, rfl, rfl⟩⟩

end Sys2Proof.Machine
end

section
/-! PROOFS. The environment (46_system.md R276, R279): what each move does to STAT.WAKE, and that the continuation of a
script that is used up is fair. -/

namespace Sys2Proof.Machine

section
variable {s t : State}

/-! ### One move -/

/-- A tick wakes when the timer is armed (R276). -/
theorem State.envTick_wake (s : State) : s.envTick.wake = (s.wake || s.tarm) := by
  cases h : s.tarm <;> simp [State.envTick, State.wake, h]

/-- A press edge wakes when it is armed (R276). -/
theorem State.envBtn_wake (v : Bool) (s : State) :
    (s.envBtn v).wake = (s.wake || (s.barm && s.env.btnN && !v)) := by
  have hedge : (s.barm && s.env.btnN && !v) = (s.env.btnN && !v && s.barm) := by
    rw [Bool.and_assoc, Bool.and_comm]
  rw [hedge]
  cases h : s.env.btnN && !v && s.barm <;> simp [State.envBtn, State.wake, h]

theorem EnvMoved.statFrame (h : EnvMoved s t) : statFrame [0] s t := fun _ hj => h.stat_bit (by simpa using hj)

/-- Settles O49: each move by its one write, of STAT.WAKE or of the environment. -/
theorem enabledEventsSetWake : Obligations.EnabledEventsSetWake := by
  refine fun s => ⟨s.envTick_wake, fun v => ⟨s.envBtn_wake v, rfl⟩, fun k => ⟨?_, rfl⟩, rfl,
    s.envTick_moved.statFrame, fun v => (s.envBtn_moved v).statFrame⟩
  show (s.env.cnt + BitVec.ofNat 32 k).toNat = _
  rw [BitVec.toNat_add, BitVec.toNat_ofNat, Nat.add_mod_mod]

/-! ### The fair continuation -/

theorem State.envFair_script (s : State) : s.envFair.env.script = s.env.script := rfl

theorem State.toNat_envFair_cnt (s : State) : s.envFair.env.cnt.toNat = (s.env.cnt.toNat + 1) % 2 ^ 32 :=
  BitVec.toNat_add _ _

/-- A requested delay ends (R279). -/
theorem State.envFair_dlyDone (h : s.portDlyReq = true) : s.envFair.env.dlyDone = true := by
  have hdelay : s.hold.isDelay = true := h
  show (s.env.dlyDone || s.hold.isDelay) = true
  rw [hdelay, Bool.or_true]

theorem State.envFair_tarm (s : State) : s.envFair.tarm = s.tarm := s.envFair_moved.stat_bit (by decide)

/-- The armed timer wakes at every 64th value of the counter, whatever CORE waits for (log 2). -/
theorem State.envFair_wake (htarm : s.tarm = true) (hcnt : s.envFair.env.cnt.toNat % 64 = 0) :
    s.envFair.wake = true := by
  have hdue : ((s.envTime 1).envDelayDone).tickDue = true := by
    have hcnt' : (s.envTime 1).envDelayDone.env.cnt.toNat % 64 = 0 := hcnt
    simp [State.tickDue, hcnt']
  have hstat : s.envFair.stat = ((s.envTime 1).envDelayDone).envTick.stat := if_pos hdue
  have hwake : s.envFair.wake = ((s.envTime 1).envDelayDone).envTick.wake := by rw [State.wake, hstat, State.wake]
  rw [hwake, State.envTick_wake]
  simp [htarm]

/-- `t` is `s` after `k` turns of the continuation. -/
structure AfterTurns (k : Nat) (s t : State) : Prop where
  script : t.env.script = []
  tarm : t.tarm = s.tarm
  cnt : t.env.cnt.toNat = (s.env.cnt.toNat + k) % 2 ^ 32

theorem afterTurns_iterate (h : s.env.script = []) (k : Nat) : AfterTurns k s (State.envTurn^[k] s) := by
  induction k with
  | zero => exact ⟨h, rfl, (Nat.mod_eq_of_lt s.env.cnt.isLt).symm⟩
  | succ k ih =>
    rw [Function.iterate_succ_apply', State.envTurn_of_nil ih.script]
    refine ⟨(State.envFair_script _).trans ih.script, (State.envFair_tarm _).trans ih.tarm, ?_⟩
    rw [State.toNat_envFair_cnt, ih.cnt, Nat.mod_add_mod, Nat.add_assoc]

/-- An armed timer ticks within 64 turns (R279 (a)): one of any 64 values in a row of the counter is due, and the counter
wraps at a multiple of 64. -/
theorem wakes_within_64_turns (h : s.env.script = []) (htarm : s.tarm = true) :
    ∃ k, k < 64 ∧ (State.envTurn^[k + 1] s).wake = true := by
  have hlt := Nat.mod_lt s.env.cnt.toNat (show 0 < 64 by decide)
  refine ⟨63 - s.env.cnt.toNat % 64, by omega, ?_⟩
  have hbefore := afterTurns_iterate h (63 - s.env.cnt.toNat % 64)
  have hafter := afterTurns_iterate h (63 - s.env.cnt.toNat % 64 + 1)
  rw [Function.iterate_succ_apply', State.envTurn_of_nil hbefore.script] at hafter ⊢
  refine State.envFair_wake (hbefore.tarm.trans htarm) ?_
  rw [hafter.cnt]
  omega

end

/-- Settles O50: a turn without a reset is moves of the environment; with no script left it is the fair continuation. -/
theorem environmentWritesOnlyWake : Obligations.EnvironmentWritesOnlyWake := by
  intro s hreset
  have hmoved := State.envTurn_moved hreset
  refine ⟨hmoved.eq, hmoved.statFrame, hmoved.wake, fun h => ⟨wakes_within_64_turns h, ?_⟩⟩
  rw [State.envTurn_of_nil h]
  exact ⟨State.envFair_dlyDone, s.toNat_envFair_cnt, h⟩

end Sys2Proof.Machine
end

section
/-! PROOFS. The labels of the sequencer (46_system.md R267 to R275): what each issues in each state that it can be in, and
where it goes. -/

namespace Sys2Proof.Machine

section
variable {s : State} {i : Instr} {l l' : Label}

/-! ### A label that issues one operation -/

/-- Where the label `l` issues `i` and goes to `l'`, and `i` completes, SEQ is taken to `l'`. -/
theorem coreStep_of_completes (ha : s.Autonomous) (hq : s.seq = labelCode l) (hl : seqLabel l s = issueThen i l' s)
    (hex : ∃ t, exec i s = .next t ∧ t.hold = .running) :
    ∃ t, exec i s = .next t ∧ coreStep s = .next { t with seq := labelCode l', part := .first } := by
  obtain ⟨t, ht, hrun⟩ := hex
  exact ⟨t, ht, by rw [coreStep_of_labelCode ha.1 hq, hl, issueThen_of_running ht hrun]⟩

/-- Where the label `l` issues `i`, and `i` holds, the label is kept. -/
theorem coreStep_of_holds {t : State} (ha : s.Autonomous) (hq : s.seq = labelCode l)
    (hl : seqLabel l s = issueThen i l' s) (hex : exec i s = .next t) (hhold : t.hold ≠ .running) :
    coreStep s = .next t := by
  rw [coreStep_of_labelCode ha.1 hq, hl, issueThen_of_holding hex hhold]

/-- An operation that does not wait has completed when it answers a next state. -/
theorem exec_completes_of_not_waits (hw : waits i = false) (hi : i ≠ .irqoff) (hh : s.hold = .running)
    (hex : ∃ t, exec i s = .next t) : ∃ t, exec i s = .next t ∧ t.hold = .running := by
  obtain ⟨t, ht⟩ := hex
  exact ⟨t, ht, (exec_noWait hw hi ht).hold.trans hh⟩

/-! ### The labels that wait out the button and the settle delay: A_HOLD and G_HOLD, A_SETTLE and G_SETTLE -/

theorem coreStep_waitrel_of_released (ha : s.Autonomous) (hq : s.seq = labelCode l)
    (hl : seqLabel l s = issueThen .waitrel l' s) (hb : s.env.btnN = true) :
    ∃ t, exec .waitrel s = .next t ∧ coreStep s = .next { t with seq := labelCode l', part := .first } :=
  coreStep_of_completes ha hq hl ⟨_, exec_waitrel_of_released ha.2 hb, rfl⟩

theorem coreStep_waitrel_of_pressed (ha : s.Autonomous) (hq : s.seq = labelCode l)
    (hl : seqLabel l s = issueThen .waitrel l' s) (hb : s.env.btnN = false) :
    ∃ t, exec .waitrel s = .next t ∧ coreStep s = .next t ∧ t.seq = labelCode l ∧ t.hold = .release :=
  have hex := exec_waitrel_of_pressed ha.2 hb
  ⟨_, hex, coreStep_of_holds ha hq hl hex nofun, hq, rfl⟩

theorem coreStep_settle_of_over (ha : s.Autonomous) (hq : s.seq = labelCode l)
    (hl : seqLabel l s = issueThen (.delayms s.par.settleMs) l' s)
    (hover : s.par.settleMs = 0 ∨ (s.hold = .delay .ms s.par.settleMs.toNat ∧ s.env.dlyDone = true)) :
    ∃ t, exec (.delayms s.par.settleMs) s = .next t ∧
      coreStep s = .next { t with seq := labelCode l', part := .first } := by
  refine coreStep_of_completes ha hq hl ?_
  rw [exec_delayms_of_closed ha.2]
  by_cases hn : s.par.settleMs.toNat = 0
  · exact ⟨_, State.waitDelay_of_zero hn, rfl⟩
  · obtain h0 | ⟨hh, hd⟩ := hover
    · exact absurd (by simp [h0]) hn
    · exact ⟨_, State.waitDelay_of_over hn hh hd, rfl⟩

theorem coreStep_settle_of_request (ha : s.Autonomous) (hq : s.seq = labelCode l)
    (hl : seqLabel l s = issueThen (.delayms s.par.settleMs) l' s) (hn : s.par.settleMs ≠ 0)
    (hh : s.hold ≠ .delay .ms s.par.settleMs.toNat) :
    ∃ t, exec (.delayms s.par.settleMs) s = .next t ∧ coreStep s = .next t ∧ t.seq = labelCode l ∧
      t.hold = .delay .ms s.par.settleMs.toNat :=
  have hex := (exec_delayms_of_closed ha.2 _).trans (State.waitDelay_of_request (BitVec.toNat_ne.1 hn) hh)
  ⟨_, hex, coreStep_of_holds ha hq hl hex nofun, hq, rfl⟩

theorem coreStep_settle_of_waiting (ha : s.Autonomous) (hq : s.seq = labelCode l)
    (hl : seqLabel l s = issueThen (.delayms s.par.settleMs) l' s) (hn : s.par.settleMs ≠ 0)
    (hh : s.hold = .delay .ms s.par.settleMs.toNat) (hd : s.env.dlyDone = false) : coreStep s = .next s :=
  have hex := (exec_delayms_of_closed ha.2 _).trans (State.waitDelay_of_waiting (BitVec.toNat_ne.1 hn) hh hd)
  coreStep_of_holds ha hq hl hex (by rw [hh]; nofun)

/-! ### The labels of several operations: BOOT and A_BTN -/

/-- PINCFG of BOOT with the GameEngine (R267). -/
theorem seqBoot_first_of_game (hpart : s.part = .first) (he : s.engine = true) :
    seqBoot s = .next (((s.setDout false).setOe true).goto .gInit) := by
  have hengine : ((s.setDout false).setOe true).engine = true := he
  simp only [seqBoot, hpart, exec_pincfg, andThen_next, hengine, if_true]

/-- PINCFG of BOOT with the AnimationEngine (R267). -/
theorem seqBoot_first_of_animation (hpart : s.part = .first) (he : s.engine = false) :
    seqBoot s = .next (((s.setDout false).setOe true).goPart .second) := by
  have hengine : ((s.setDout false).setOe true).engine = false := he
  simp only [seqBoot, hpart, exec_pincfg, andThen_next, hengine, Bool.false_eq_true, if_false]

/-- The one sample of BOOT, which decides the mode (R267). -/
theorem seqBoot_second (hpart : s.part = .second) :
    seqBoot s = .next (s.sampleButton.takeMode.goPart .third) := by
  simp only [seqBoot, hpart]
  rfl

theorem seqBoot_third (hpart : s.part = .third) :
    seqBoot s = issueThen (.armwake s.par.refreshMs) (if s.bs then .aHold else .aExec) s := by
  simp only [seqBoot, hpart]
  rfl

theorem takeMode_statFrame (s : State) : statFrame [2, 5] s s.takeMode :=
  (State.setStat_statFrame (by decide) s.bs s).trans (State.setStat_statFrame (by decide) s.bs _)

/-- A_BTN in automatic mode issues nothing (R271). -/
theorem seqBtn_of_automatic (hpart : s.part = .first) (hm : s.man = false) : seqBtn s = .next (s.goto .aExec) := by
  simp only [seqBtn, hpart, hm, Bool.false_eq_true, if_false]

/-- A_BTN in manual mode issues RDBTN (R271). -/
theorem seqBtn_of_manual (hpart : s.part = .first) (hm : s.man = true) :
    seqBtn s = .next (if s.sampleButton.bs then s.sampleButton.goPart .second else s.sampleButton.goto .aExec) := by
  simp only [seqBtn, hpart, hm, if_true]
  rfl

theorem seqBtn_second (hpart : s.part = .second) : seqBtn s = issueThen .anext .aHold s := by
  simp only [seqBtn, hpart]

theorem seqTick_of_manual (hm : s.man = true) : seqTick s = .next (s.goto .aSleep) := if_pos hm

theorem seqTick_of_automatic (hm : s.man = false) : seqTick s = issueThen .atick .aSleep s :=
  if_neg (Bool.not_eq_true _ ▸ hm)

end

/-- Settles O52: the three positions of BOOT. -/
theorem bootDecidesTheMode : Obligations.BootDecidesTheMode := by
  intro s hp hq hh hr
  have hboot : coreStep s = seqBoot s := coreStep_of_labelCode (l := .boot) hp hq
  refine ⟨fun hpart => ?_, fun hpart => ?_, fun hpart => ?_⟩
  · have hrun : ((s.setDout false).setOe true).hold = .running := hh
    refine ⟨_, exec_pincfg s, by simp, by simp, fun he => ?_, fun he => ?_⟩
    · rw [hboot, seqBoot_first_of_game hpart he, State.goto_of_running hrun]
      rfl
    · rw [hboot, seqBoot_first_of_animation hpart he]
      rfl
  · refine ⟨_, hboot.trans (seqBoot_second hpart), by simp [State.takeMode], by simp [State.takeMode],
      by simp [State.takeMode], ?_, rfl⟩
    have hsample : statFrame [3] s s.sampleButton := State.setStat_statFrame (by decide) _ s
    exact (hsample.trans (takeMode_statFrame _)).mono (by decide)
  · refine ⟨_, exec_armwake_eq_next hr s, ?_⟩
    rw [hboot, seqBoot_third hpart, issueThen_of_running (exec_armwake_eq_next hr s) hh]
    cases s.bs <;> rfl

/-- Settles O53: label by label, each wait in the states it can be in. -/
theorem animationLabelsRunTheLoop : Obligations.AnimationLabelsRunTheLoop := by
  intro s hs ha dly
  have hmove (l : Label) (hq : s.seq = labelCode l) : coreStep s = seqLabel l s := coreStep_of_labelCode ha.1 hq
  refine ⟨fun hq hh => ?exec, fun hq hh hm => ?tick, fun hq hh hm => ?manual, fun hq hw => ?wake, fun hq hw => ?asleep,
    fun hq hh hpart hm => ?automatic, fun hq hh hpart hm => ?sample, fun hq hh hpart => ?advance,
    fun hq => coreStep_waitrel_of_released (l := .aHold) ha hq rfl,
    fun hq => coreStep_waitrel_of_pressed (l := .aHold) ha hq rfl,
    fun hq => coreStep_settle_of_over (l := .aSettle) ha hq rfl,
    fun hq => coreStep_settle_of_request (l := .aSettle) ha hq rfl,
    fun hq => coreStep_settle_of_waiting (l := .aSettle) ha hq rfl⟩
  case exec =>
    exact coreStep_of_completes (l := .aExec) ha hq rfl
      (exec_completes_of_not_waits (waits_fxOf _) (fxOf_ne_irqoff _) hh (exec_fxOf_completes s.ast hs.registers))
  case tick =>
    exact coreStep_of_completes (l := .aTick) ha hq (seqTick_of_automatic hm)
      (exec_completes_of_not_waits rfl nofun hh (exec_atick_completes s))
  case manual =>
    rw [hmove .aTick hq, seqLabel, seqTick_of_manual hm, State.goto_of_running hh]
    rfl
  case wake => exact coreStep_of_completes (l := .aSleep) ha hq rfl ⟨_, exec_wfe_of_woken ha.2 hw, rfl⟩
  case asleep => exact coreStep_of_holds (l := .aSleep) ha hq rfl (exec_wfe_of_asleep ha.2 hw) nofun
  case automatic =>
    rw [hmove .aBtn hq, seqLabel, seqBtn_of_automatic hpart hm, State.goto_of_running hh]
    rfl
  case sample =>
    have hstep := (hmove .aBtn hq).trans (seqBtn_of_manual hpart hm)
    have hrun : s.sampleButton.hold = .running := hh
    refine ⟨_, rfl, fun hb => ?_, fun hb => ?_⟩
    · have hup : s.sampleButton.bs = false := by simp [hb]
      rw [hstep, hup, if_neg nofun, State.goto_of_running hrun]
      rfl
    · have hdown : s.sampleButton.bs = true := by simp [hb]
      rw [hstep, hdown, if_pos rfl]
      rfl
  case advance =>
    exact coreStep_of_completes (l := .aBtn) ha hq (seqBtn_second hpart) ⟨_, rfl, hh⟩

/-- Settles O54: label by label, each wait in the states it can be in. -/
theorem gameLabelsRunTheLoop : Obligations.GameLabelsRunTheLoop := by
  intro s hs ha dly
  refine ⟨fun hq hh => ?init, fun hq hh => ?poll,
    fun hq => coreStep_waitrel_of_released (l := .gHold) ha hq rfl,
    fun hq => coreStep_waitrel_of_pressed (l := .gHold) ha hq rfl,
    fun hq => coreStep_settle_of_over (l := .gSettle) ha hq rfl,
    fun hq => coreStep_settle_of_request (l := .gSettle) ha hq rfl,
    fun hq => coreStep_settle_of_waiting (l := .gSettle) ha hq rfl⟩
  case init =>
    exact coreStep_of_completes (l := .gInit) ha hq rfl
      (exec_completes_of_not_waits rfl nofun hh (exec_ginit_completes hs.registers))
  case poll =>
    obtain ⟨t, ht, hrun⟩ :=
      exec_completes_of_not_waits (i := .gpoll) rfl nofun hh (exec_gpoll_completes hs.registers)
    refine ⟨t, ht, ?_⟩
    rw [coreStep_of_labelCode (l := .gPoll) ha.1 hq, seqLabel, seqGPoll, ht, andThen_next, State.goto_of_running hrun]
    cases t.bs <;> rfl

end Sys2Proof.Machine
end

section
/-! PROOFS. Exceptions (60_exceptions.md R291, R299): the refusals of operands and of waits in the critical section, and
that from a state in range there are no others. -/

namespace Sys2Proof.Machine

section
variable {s : State} {i : Instr} {h : Byte} {l : Level}

theorem not_completes_of_refused {r : Result} {q : Refusal} (e : r = .refused q) : ¬ ∃ t, r = .next t := by
  rintro ⟨t, ht⟩
  cases e.symm.trans ht

/-! ### The check of a hue and a level, the hue first -/

theorem unlessOutOfRange_of_hue (hh : 191 < h.toNat) (l : Level) (r : Result) :
    unlessOutOfRange h l r = .refused .hueOutOfRange := if_pos hh

theorem unlessOutOfRange_of_level (hh : h.toNat ≤ 191) (hl : 6 < l.toNat) (r : Result) :
    unlessOutOfRange h l r = .refused .levelOutOfRange := (if_neg (Nat.not_lt.2 hh)).trans (if_pos hl)

theorem unlessOutOfRange_of_ok (hh : h.toNat ≤ 191) (hl : l.toNat ≤ 6) (r : Result) : unlessOutOfRange h l r = r :=
  (if_neg (Nat.not_lt.2 hh)).trans (if_neg (Nat.not_lt.2 hl))

/-- The check passes exactly the operands that are well formed. -/
theorem unlessOutOfRange_completes_iff (h : Byte) (l : Level) (u : State) :
    (∃ t, unlessOutOfRange h l (.next u) = .next t) ↔ (hueOk h && levelOk l) = true := by
  simp only [hueOk, levelOk, Bool.and_eq_true, decide_eq_true_eq]
  obtain hh | hh := Nat.lt_or_ge 191 h.toNat
  · exact iff_of_false (not_completes_of_refused (unlessOutOfRange_of_hue hh l _)) fun hok => Nat.not_le.2 hh hok.1
  · obtain hl | hl := Nat.lt_or_ge 6 l.toNat
    · exact iff_of_false (not_completes_of_refused (unlessOutOfRange_of_level hh hl _))
        fun hok => Nat.not_le.2 hl hok.2
    · exact iff_of_true ⟨u, unlessOutOfRange_of_ok hh hl _⟩ ⟨hh, hl⟩

/-- HUE2RGB makes the same check as the operations of the strip (41_color_model.md R152). -/
theorem exec_hue2rgb_eq (h : Byte) (l : Level) (s : State) :
    ∃ u, exec (.hue2rgb h l) s = unlessOutOfRange h l (.next u) :=
  ⟨_, by simp only [exec, execHue2rgb, hue2rgb, apply_ite s.putColour]; rfl⟩

theorem exec_hue2rgbl_of_hue (hh : 191 < h.toNat) (s : State) : exec (.hue2rgbl h) s = .refused .hueOutOfRange := by
  change s.putColour (hue2rgbl h) = _
  rw [hue2rgbl, if_pos hh]
  rfl

/-! ### The bound and the period -/

theorem prngNext_zero (s : State) : prngNext 0 s = .refused .zeroModulus := rfl

theorem exec_armwake_zero (s : State) : exec (.armwake 0) s = .refused .zeroPeriod := rfl

/-! ### The waits -/

/-- No operation that waits runs inside the critical section (40_transmitter.md R137). -/
theorem exec_of_waits_in_critical (hw : waits i = true) (him : s.im = true) :
    exec i s = .refused .holdInCritical := by
  cases i with
  | latch | wfe | waitrel | delayus | delayms => exact unlessCritical_of_im him _
  | _ => cases hw

/-- Outside the critical section what waits is never refused. -/
theorem exec_completes_of_waits (hw : waits i = true) (him : s.im = false) : ∃ t, exec i s = .next t := by
  cases i with
  | latch =>
    obtain ⟨t, ht⟩ := State.waitDelay_completes .us (latchMicros s.par) State.latchGap s
    exact ⟨t, (unlessCritical_of_not_im him _).trans ht⟩
  | wfe => exact exec_wfe_completes him
  | waitrel => exact exec_waitrel_completes him
  | delayus n => exact exec_delayus_of_closed him n ▸ State.waitDelay_completes _ _ _ s
  | delayms n => exact exec_delayms_completes him n
  | _ => cases hw

theorem exec_completes_iff_of_waits (hw : waits i = true) : (∃ t, exec i s = .next t) ↔ s.im = false := by
  cases him : s.im with
  | false => exact iff_of_true (exec_completes_of_waits hw him) rfl
  | true => exact iff_of_false (not_completes_of_refused (exec_of_waits_in_critical hw him)) nofun

/-- An operation that waits takes no operand with a domain. -/
theorem wellFormed_of_waits (hw : waits i = true) : i.wellFormed = true := by
  cases i with
  | latch | wfe | waitrel | delayus | delayms => rfl
  | _ => cases hw

/-! ### The operations that do not wait -/

theorem exec_hue2rgbl_completes_iff (h : Byte) (s : State) :
    (∃ t, exec (.hue2rgbl h) s = .next t) ↔ hueOk h = true := by
  rw [hueOk, decide_eq_true_eq]
  obtain hh | hh := Nat.lt_or_ge 191 h.toNat
  · exact iff_of_false (not_completes_of_refused (exec_hue2rgbl_of_hue hh s)) (Nat.not_le.2 hh)
  · exact iff_of_true ⟨_, exec_hue2rgbl_eq_next (hue2rgbl_eq_ok hh)⟩ hh

theorem exec_rnext_completes_iff (m : BitVec 24) (s : State) : (∃ t, exec (.rnext m) s = .next t) ↔ m ≠ 0 := by
  obtain rfl | hm := eq_or_ne m 0
  · exact iff_of_false (not_completes_of_refused (prngNext_zero s)) (· rfl)
  · exact iff_of_true ⟨_, exec_rnext_eq_next (BitVec.toNat_ne.1 hm) s⟩ hm

theorem exec_armwake_completes_iff (n : BitVec 24) (s : State) : (∃ t, exec (.armwake n) s = .next t) ↔ n ≠ 0 := by
  obtain rfl | hn := eq_or_ne n 0
  · exact iff_of_false (not_completes_of_refused (exec_armwake_zero s)) (· rfl)
  · exact iff_of_true ⟨_, exec_armwake_eq_next hn s⟩ hn

theorem exec_irqon_completes (s : State) : ∃ t, exec .irqon s = .next t := by
  cases him : s.im with
  | false => exact ⟨_, exec_irqon_of_closed him⟩
  | true => exact ⟨_, exec_irqon_of_open him⟩

theorem renderGame_completes (hs : RegistersInRange s) : ∃ t, s.renderGame = .next t := by
  obtain ⟨t, ht, -⟩ := renderGame_after hs rfl
  exact ⟨t, ht⟩

theorem gameReset_completes (hs : RegistersInRange s) : ∃ t, s.gameReset = .next t := by
  obtain ⟨t, ht, -⟩ := gameReset_relocated hs
  exact ⟨t, ht⟩

theorem gameCatch_completes (hs : RegistersInRange s) : ∃ t, s.gameCatch = .next t := by
  obtain ⟨t, ht, -⟩ := gameCatch_relocated hs
  exact ⟨t, ht⟩

theorem gameStep_completes (hs : RegistersInRange s) : ∃ t, s.gameStep = .next t := by
  obtain ⟨t, ht, -⟩ := gameStep_sent hs
  exact ⟨t, ht⟩

/-- What does not wait is refused from the ranges for its operands alone: six operations check theirs, the others always
complete. -/
theorem exec_completes_iff_wellFormed (hs : RegistersInRange s) (hw : waits i = false) :
    (∃ t, exec i s = .next t) ↔ i.wellFormed = true := by
  cases i with
  | latch | wfe | waitrel | delayus | delayms => cases hw
  | hue2rgb h l =>
    obtain ⟨u, hu⟩ := exec_hue2rgb_eq h l s
    rw [hu]
    exact unlessOutOfRange_completes_iff h l u
  | hue2rgbl h => exact exec_hue2rgbl_completes_iff h s
  | pxset p h l | fill h l => exact unlessOutOfRange_completes_iff h l _
  | rnext m => simpa [Instr.wellFormed] using exec_rnext_completes_iff m s
  | armwake n => simpa [Instr.wellFormed] using exec_armwake_completes_iff n s
  | showFrame => exact iff_of_true hs.showStrip_completes rfl
  | fx1 => exact iff_of_true (execFx1_completes hs) rfl
  | fx2 => exact iff_of_true (execFx2_completes hs) rfl
  | fx3 => exact iff_of_true (execFx3_completes hs) rfl
  | fx4 => exact iff_of_true (execFx4_completes hs) rfl
  | fx5 => exact iff_of_true (execFx5_completes hs) rfl
  | fx6 => exact iff_of_true (execFx6_completes hs) rfl
  | fx7 => exact iff_of_true (execFx7_completes hs) rfl
  | atick => exact iff_of_true (exec_atick_completes s) rfl
  | greset => exact iff_of_true (gameReset_completes hs) rfl
  | gstep => exact iff_of_true (gameStep_completes hs) rfl
  | gcatch => exact iff_of_true (gameCatch_completes hs) rfl
  | grender => exact iff_of_true (renderGame_completes hs) rfl
  | gpoll => exact iff_of_true (exec_gpoll_completes hs) rfl
  | ginit => exact iff_of_true (exec_ginit_completes hs) rfl
  | irqon => exact iff_of_true (exec_irqon_completes s) rfl
  | sendbit | sendbyte | sendcolor | pxget | fade | clear | rotate | fx0 | anext | rdcnt | rdbtn | irqoff | pincfg =>
    exact iff_of_true ⟨_, rfl⟩ rfl

end

/-- Settles O6: the three operations on a pair make one check, the hue first. -/
theorem refusalReasons : Obligations.RefusalReasons := by
  refine ⟨fun s i h l => ⟨fun hh => ?hue, fun hh hl => ?level, prngNext_zero s, exec_armwake_zero s⟩,
    fun i s => exec_of_waits_in_critical⟩
  all_goals obtain ⟨u, hu⟩ := exec_hue2rgb_eq h l s
  case hue =>
    exact ⟨hu.trans (unlessOutOfRange_of_hue hh l _), exec_hue2rgbl_of_hue hh s, unlessOutOfRange_of_hue hh l _,
      unlessOutOfRange_of_hue hh l _⟩
  case level =>
    exact ⟨hu.trans (unlessOutOfRange_of_level hh hl _), unlessOutOfRange_of_level hh hl _,
      unlessOutOfRange_of_level hh hl _⟩

/-- Settles O5: what waits is refused for the critical section alone, what does not wait for its operands alone. -/
theorem operationsRunUnlessRefused : Obligations.OperationsRunUnlessRefused := by
  intro i s hs
  cases hw : waits i with
  | false => simpa using exec_completes_iff_wellFormed hs.registers hw
  | true => simpa [wellFormed_of_waits hw] using exec_completes_iff_of_waits hw

end Sys2Proof.Machine
end

section
/-! PROOFS. The reset pin (70_reset_and_hazards.md R320, R321): a turn that begins with a reset is the reset alone, and
what it leaves is the table of 10_state.md R58. -/

namespace Sys2Proof.Machine

section
variable {s u : State} {es : List EnvEvent}

/-- A reset that comes next ends the turn at once: no move of the environment comes before it, and those after it stay. -/
theorem State.envTurn_of_reset (h : u.env.script = .reset :: es) : u.envTurn = (u.setScript es).powerOn := by
  have hinside : u.envInside = u.setScript (.reset :: es) := by rw [State.envInside, h, envRun]
  have hturn : u.envTurn = u.envInside.takeReset := by rw [State.envTurn, h]
  rw [hturn, hinside]
  rfl

/-- A step whose turn begins with a reset ends in the reset state, whatever CORE's move did. -/
theorem step_of_reset (hu : coreStep s = .next u) (h : u.env.script = .reset :: es) :
    step s = .next (u.setScript es).powerOn := by
  rw [step, hu, andThen_next, State.envTurn_of_reset h]

end

/-- Settles O51: the step ends in the reset state, where each clause is what State.resetOf writes, but for the
environment, which State.powerOn keeps. -/
theorem resetRestoresEveryRegister : Obligations.ResetRestoresEveryRegister := by
  intro s u es hu hscript
  refine ⟨(u.setScript es).powerOn, step_of_reset hu hscript, ?registers⟩
  exact ⟨rfl, rfl, rfl, rfl, rfl, rfl, rfl, rfl, rfl, rfl, rfl, rfl, rfl, rfl, rfl, rfl, rfl, rfl, rfl,
    Memory.read_nil, rfl, rfl, rfl, rfl⟩

end Sys2Proof.Machine
end
